-- ==== Sys2Proof/Word.lean ====
section
/-! DEFINITION. Words, bytes, the plain index types and the record of a value register (00_scope.md R9, R14; 10_state.md R31). -/

namespace Sys2Proof

/-- A word: a 32-bit storage cell (00_scope.md R9). Bit 0 is the least significant (R14). -/
abbrev Word := BitVec 32

/-- One byte lane of a window register (20_memory.md R62). -/
abbrev Byte := BitVec 8

/-- The 4-bit index of a value register, naming V0 to V15 directly (30_encoding.md R92). -/
abbrev RegIx := BitVec 4

/-- The 5-bit width code `wc`; the width is `8 * (wc + 1)`, so every code is a supported width (00_scope.md R17). -/
abbrev WidthCode := BitVec 5

/-- The 6-bit opcode field of a command word (30_encoding.md R91). -/
abbrev Opcode := BitVec 6

/-- A value register as stored (10_state.md R31). `wd[0]` is the least significant word; every register stores eight
words whatever its width (R32). -/
structure VReg where
  /-- VALID: the register holds a value; `false` is an empty register (R34). -/
  valid : Bool
  /-- WC: the width code. -/
  wc : WidthCode
  /-- SG: `true` is a signed type, `int<w>`. -/
  sg : Bool
  /-- Wd[0..7]: the word vector. -/
  wd : Vector Word 8
deriving DecidableEq, Repr

/-- An empty register as reset leaves it: every field 0 (10_state.md R52). -/
def VReg.empty : VReg := { valid := false, wc := 0, sg := false, wd := Vector.replicate 8 0 }

end Sys2Proof
end

