-- ==== Sys2Proof/Syntax.lean ====
section
/-! DEFINITION. The syntax of commands: one constructor per row of the opcode table (30_encoding.md R96, R97). -/

namespace Sys2Proof

/-- The native integer width that `cnt` selects for FROMNAT and TONAT: 1 means 32 bits, 2 means 64 bits, and every other
value is an illegal command (30_encoding.md R94, R100). -/
inductive NativeWidth where
  | n32
  | n64
deriving DecidableEq, Repr

/-- The 23 commands. Arguments stand in the order of the format's fields rd, rs1, rs2, rd2, wc, sg, cnt, for the fields
marked U in R97. -/
inductive Instr where
  /-- ZERO, R120. -/
  | zero (rd : RegIx) (wc : WidthCode) (sg : Bool)
  /-- LDW, R121; `cnt` is any 4-bit count (R94). -/
  | ldw (rd : RegIx) (wc : WidthCode) (sg : Bool) (cnt : BitVec 4)
  /-- STW, R124. -/
  | stw (rs1 : RegIx)
  /-- GETBIT, R126; the index is in ARG. -/
  | getbit (rs1 : RegIx)
  /-- ISZERO, R128. -/
  | iszero (rs1 : RegIx)
  /-- SIGNBIT, R130. -/
  | signbit (rs1 : RegIx)
  /-- TYPEOF, R132. -/
  | typeof (rs1 : RegIx)
  /-- ADD, R150. -/
  | add (rd rs1 rs2 : RegIx)
  /-- SUB, R153. -/
  | sub (rd rs1 rs2 : RegIx)
  /-- MUL, R156. -/
  | mul (rd rs1 rs2 : RegIx)
  /-- DIVREM, R160; `rd` takes the quotient and `rd2` the remainder. -/
  | divrem (rd rs1 rs2 rd2 : RegIx)
  /-- SHL, R180; the amount is in ARG. -/
  | shl (rd rs1 : RegIx)
  /-- SHR, R183; the amount is in ARG. -/
  | shr (rd rs1 : RegIx)
  /-- AND, R187. -/
  | and (rd rs1 rs2 : RegIx)
  /-- OR, R188. -/
  | or (rd rs1 rs2 : RegIx)
  /-- XOR, R189. -/
  | xor (rd rs1 rs2 : RegIx)
  /-- NOT, R190. -/
  | not (rd rs1 : RegIx)
  /-- CMP, R192. -/
  | cmp (rs1 rs2 : RegIx)
  /-- WIDEN, R210. -/
  | widen (rd rs1 : RegIx) (wc : WidthCode)
  /-- NARROW, R213. -/
  | narrow (rd rs1 : RegIx) (wc : WidthCode)
  /-- REINT, R216. -/
  | reint (rd rs1 : RegIx)
  /-- FROMNAT, R219. -/
  | fromnat (rd : RegIx) (wc : WidthCode) (sg : Bool) (native : NativeWidth)
  /-- TONAT, R222. -/
  | tonat (rs1 : RegIx) (native : NativeWidth)
deriving DecidableEq, Repr

end Sys2Proof
end

