-- ==== Sys2Proof/WellFormed.lean ====
section
/-! DEFINITION. The legality of a command beyond what its syntax already rules out (30_encoding.md R100). -/

namespace Sys2Proof

/-- A command that an encoding can stand for. The one check the syntax leaves is R100(a): DIVREM needs two distinct
destinations. R100(b) holds of every term, because `NativeWidth` has the two legal widths only; a reserved-zero field
(R98) has no place in the syntax. -/
def Instr.wellFormed : Instr → Bool
  | .zero _ _ _ => true
  | .ldw _ _ _ _ => true
  | .stw _ => true
  | .getbit _ => true
  | .iszero _ => true
  | .signbit _ => true
  | .typeof _ => true
  | .add _ _ _ => true
  | .sub _ _ _ => true
  | .mul _ _ _ => true
  | .divrem rd _ _ rd2 => rd != rd2
  | .shl _ _ => true
  | .shr _ _ => true
  | .and _ _ _ => true
  | .or _ _ _ => true
  | .xor _ _ _ => true
  | .not _ _ => true
  | .cmp _ _ => true
  | .widen _ _ _ => true
  | .narrow _ _ _ => true
  | .reint _ _ => true
  | .fromnat _ _ _ _ => true
  | .tonat _ _ => true

end Sys2Proof
end

