-- ==== Sys2Proof/Decode.lean ====
section
/-! DEFINITION. The one command format, the opcode map, the decoder (total, rejecting by name) and the encoder
(30_encoding.md R90 to R101). -/

namespace Sys2Proof

/-- Why a command word is illegal; each completes with IllegalCommand (30_encoding.md R98 to R100). -/
inductive DecodeError where
  /-- The op field names no command (R99). -/
  | unassignedOpcode (op : Opcode)
  /-- A reserved-zero field of the command is not 0 (R98). -/
  | reservedField
  /-- DIVREM with rd = rd2 (R100(a)). -/
  | sameDestinations
  /-- FROMNAT or TONAT with cnt outside 1, 2 (R100(b)). -/
  | nativeWidth
deriving DecidableEq, Repr

/-! The fields of format C (R91). -/

/-- op, bits 31:26. -/
def opField (c : Word) : Opcode := c.extractLsb' 26 6
/-- rd, bits 25:22. -/
def rdField (c : Word) : RegIx := c.extractLsb' 22 4
/-- rs1, bits 21:18. -/
def rs1Field (c : Word) : RegIx := c.extractLsb' 18 4
/-- rs2, bits 17:14. -/
def rs2Field (c : Word) : RegIx := c.extractLsb' 14 4
/-- rd2, bits 13:10. -/
def rd2Field (c : Word) : RegIx := c.extractLsb' 10 4
/-- wc, bits 9:5. -/
def wcField (c : Word) : WidthCode := c.extractLsb' 5 5
/-- sg, bit 4. -/
def sgField (c : Word) : Bool := c.getLsbD 4
/-- cnt, bits 3:0. -/
def cntField (c : Word) : BitVec 4 := c.extractLsb' 0 4

/-- The native width a count selects (R94). -/
def nativeOfCnt (cnt : BitVec 4) : Option NativeWidth :=
  if cnt = 1 then some .n32 else if cnt = 2 then some .n64 else none

/-- The count that selects a native width (R94). -/
def cntOfNative : NativeWidth → BitVec 4
  | .n32 => 1
  | .n64 => 2

/-- The opcode of a command (R96). -/
def opcodeOf : Instr → Opcode
  | .zero _ _ _ => 0x01
  | .ldw _ _ _ _ => 0x02
  | .stw _ => 0x03
  | .getbit _ => 0x04
  | .iszero _ => 0x05
  | .signbit _ => 0x06
  | .typeof _ => 0x07
  | .add _ _ _ => 0x08
  | .sub _ _ _ => 0x09
  | .mul _ _ _ => 0x0A
  | .divrem _ _ _ _ => 0x0B
  | .shl _ _ => 0x0C
  | .shr _ _ => 0x0D
  | .and _ _ _ => 0x0E
  | .or _ _ _ => 0x0F
  | .xor _ _ _ => 0x10
  | .not _ _ => 0x11
  | .cmp _ _ => 0x12
  | .widen _ _ _ => 0x18
  | .narrow _ _ _ => 0x19
  | .reint _ _ => 0x1A
  | .fromnat _ _ _ _ => 0x1C
  | .tonat _ _ => 0x1D

/-- A row of R97 selects `c` iff `c & mask = match`; with the op field already matched, a mismatch is a reserved-zero
field that is not 0 (R98). -/
def selectRow (c mask row : Word) (legal : Except DecodeError Instr) : Except DecodeError Instr :=
  if c &&& mask = row then legal else .error .reservedField

/-- The command a word stands for, or why it is illegal (R97 to R101). Total on all 32-bit words. -/
def decode (c : Word) : Except DecodeError Instr :=
  match opField c with
  | 0x01 => selectRow c 0xFC3FFC0F 0x04000000 (.ok (.zero (rdField c) (wcField c) (sgField c)))
  | 0x02 => selectRow c 0xFC3FFC00 0x08000000 (.ok (.ldw (rdField c) (wcField c) (sgField c) (cntField c)))
  | 0x03 => selectRow c 0xFFC3FFFF 0x0C000000 (.ok (.stw (rs1Field c)))
  | 0x04 => selectRow c 0xFFC3FFFF 0x10000000 (.ok (.getbit (rs1Field c)))
  | 0x05 => selectRow c 0xFFC3FFFF 0x14000000 (.ok (.iszero (rs1Field c)))
  | 0x06 => selectRow c 0xFFC3FFFF 0x18000000 (.ok (.signbit (rs1Field c)))
  | 0x07 => selectRow c 0xFFC3FFFF 0x1C000000 (.ok (.typeof (rs1Field c)))
  | 0x08 => selectRow c 0xFC003FFF 0x20000000 (.ok (.add (rdField c) (rs1Field c) (rs2Field c)))
  | 0x09 => selectRow c 0xFC003FFF 0x24000000 (.ok (.sub (rdField c) (rs1Field c) (rs2Field c)))
  | 0x0A => selectRow c 0xFC003FFF 0x28000000 (.ok (.mul (rdField c) (rs1Field c) (rs2Field c)))
  | 0x0B => selectRow c 0xFC0003FF 0x2C000000 (if rdField c = rd2Field c then .error .sameDestinations else .ok (.divrem (rdField c) (rs1Field c) (rs2Field c) (rd2Field c)))
  | 0x0C => selectRow c 0xFC03FFFF 0x30000000 (.ok (.shl (rdField c) (rs1Field c)))
  | 0x0D => selectRow c 0xFC03FFFF 0x34000000 (.ok (.shr (rdField c) (rs1Field c)))
  | 0x0E => selectRow c 0xFC003FFF 0x38000000 (.ok (.and (rdField c) (rs1Field c) (rs2Field c)))
  | 0x0F => selectRow c 0xFC003FFF 0x3C000000 (.ok (.or (rdField c) (rs1Field c) (rs2Field c)))
  | 0x10 => selectRow c 0xFC003FFF 0x40000000 (.ok (.xor (rdField c) (rs1Field c) (rs2Field c)))
  | 0x11 => selectRow c 0xFC03FFFF 0x44000000 (.ok (.not (rdField c) (rs1Field c)))
  | 0x12 => selectRow c 0xFFC03FFF 0x48000000 (.ok (.cmp (rs1Field c) (rs2Field c)))
  | 0x18 => selectRow c 0xFC03FC1F 0x60000000 (.ok (.widen (rdField c) (rs1Field c) (wcField c)))
  | 0x19 => selectRow c 0xFC03FC1F 0x64000000 (.ok (.narrow (rdField c) (rs1Field c) (wcField c)))
  | 0x1A => selectRow c 0xFC03FFFF 0x68000000 (.ok (.reint (rdField c) (rs1Field c)))
  | 0x1C => selectRow c 0xFC3FFC00 0x70000000 (match nativeOfCnt (cntField c) with | some n => .ok (.fromnat (rdField c) (wcField c) (sgField c) n) | none => .error .nativeWidth)
  | 0x1D => selectRow c 0xFFC3FFF0 0x74000000 (match nativeOfCnt (cntField c) with | some n => .ok (.tonat (rs1Field c) n) | none => .error .nativeWidth)
  | op => .error (.unassignedOpcode op)

/-- Format C: `c = op<<26 | rd<<22 | rs1<<18 | rs2<<14 | rd2<<10 | wc<<5 | sg<<4 | cnt` (R91); the fields cover the 32
bits and do not overlap, so the word is their concatenation. -/
def packFields (op : Opcode) (rd rs1 rs2 rd2 : RegIx) (wc : WidthCode) (sg : Bool) (cnt : BitVec 4) : Word :=
  op ++ rd ++ rs1 ++ rs2 ++ rd2 ++ wc ++ BitVec.ofBool sg ++ cnt

/-- The word of a command: its U fields, and 0 in every reserved-zero field (R91, R97). -/
def encode (i : Instr) : Word :=
  match i with
  | .zero rd wc sg => packFields (opcodeOf i) rd 0 0 0 wc sg 0
  | .ldw rd wc sg cnt => packFields (opcodeOf i) rd 0 0 0 wc sg cnt
  | .stw rs1 => packFields (opcodeOf i) 0 rs1 0 0 0 false 0
  | .getbit rs1 => packFields (opcodeOf i) 0 rs1 0 0 0 false 0
  | .iszero rs1 => packFields (opcodeOf i) 0 rs1 0 0 0 false 0
  | .signbit rs1 => packFields (opcodeOf i) 0 rs1 0 0 0 false 0
  | .typeof rs1 => packFields (opcodeOf i) 0 rs1 0 0 0 false 0
  | .add rd rs1 rs2 => packFields (opcodeOf i) rd rs1 rs2 0 0 false 0
  | .sub rd rs1 rs2 => packFields (opcodeOf i) rd rs1 rs2 0 0 false 0
  | .mul rd rs1 rs2 => packFields (opcodeOf i) rd rs1 rs2 0 0 false 0
  | .divrem rd rs1 rs2 rd2 => packFields (opcodeOf i) rd rs1 rs2 rd2 0 false 0
  | .shl rd rs1 => packFields (opcodeOf i) rd rs1 0 0 0 false 0
  | .shr rd rs1 => packFields (opcodeOf i) rd rs1 0 0 0 false 0
  | .and rd rs1 rs2 => packFields (opcodeOf i) rd rs1 rs2 0 0 false 0
  | .or rd rs1 rs2 => packFields (opcodeOf i) rd rs1 rs2 0 0 false 0
  | .xor rd rs1 rs2 => packFields (opcodeOf i) rd rs1 rs2 0 0 false 0
  | .not rd rs1 => packFields (opcodeOf i) rd rs1 0 0 0 false 0
  | .cmp rs1 rs2 => packFields (opcodeOf i) 0 rs1 rs2 0 0 false 0
  | .widen rd rs1 wc => packFields (opcodeOf i) rd rs1 0 0 wc false 0
  | .narrow rd rs1 wc => packFields (opcodeOf i) rd rs1 0 0 wc false 0
  | .reint rd rs1 => packFields (opcodeOf i) rd rs1 0 0 0 false 0
  | .fromnat rd wc sg n => packFields (opcodeOf i) rd 0 0 0 wc sg (cntOfNative n)
  | .tonat rs1 n => packFields (opcodeOf i) 0 rs1 0 0 0 false (cntOfNative n)

/-- What the decoder reads from a row of the opcode table: a command is one 32-bit word (R90), so the `nbits` bits of
`w` are that word. -/
def decodeTableWord (nbits w : Nat) : Option Instr :=
  match decode (BitVec.ofNat 32 (w % 2 ^ nbits)) with
  | .ok i => some i
  | .error _ => none

end Sys2Proof
end

