-- ==== Sys2Proof/Config.lean ====
section
/-! DEFINITION. What the spec fixes as parameters of the block, and the parameters it leaves open (00_scope.md R12, R13). -/

namespace Sys2Proof.Config

/-- The constant the ID register reads: the ASCII bytes "MWAU" (10_state.md R41). -/
def idValue : Word := 0x4D574155

/-- The size of the host window in bytes (00_scope.md R12, 10_state.md R45). -/
def windowBytes : Nat := 64

/-- Which 64-byte block of the host's address space holds the window. OPEN in the spec (decision D6), so it has no
value here. Log entry 5. -/
opaque mwauBaseBlock : Nat

/-- `MWAU_BASE`, aligned to 64 bytes (00_scope.md R13, 20_memory.md R61). Log entry 5. -/
def mwauBase : Nat := 64 * mwauBaseBlock

/-- The core cycles a command takes beyond the one every command takes. It may depend on the command word and on the
operand values: the value registers, ARG and DATA at acceptance (00_scope.md R13). OPEN in the spec (decision D10), so
it has no value here. Log entry 4. -/
opaque latExtra : Word → Vector VReg 16 → Word → Vector Word 8 → Nat

/-- `LAT(c)`, the core cycles from acceptance to commit: positive and finite (00_scope.md R13, 70 R282). Log entry 4. -/
def lat (c : Word) (v : Vector VReg 16) (arg : Word) (data : Vector Word 8) : Nat := latExtra c v arg data + 1

end Sys2Proof.Config
end

