-- ==== Sys2Proof/Machine/State.lean ====
section
/-! DEFINITION. The state of one MWAU (10_state.md), what its host and platform do to it (20_memory.md, 70), and the
reasons a step can stop. -/

namespace Sys2Proof.Machine

/-- The error kinds of a command (60_exceptions.md R241). An error kind is a command's outcome and stops nothing. -/
inductive ErrKind where
  /-- Operands of differing width or signedness. -/
  | typeMismatch
  /-- The divisor of DIVREM is zero. -/
  | divisionByZero
  /-- LDW with a wrong word count, WIDEN to a smaller or NARROW to a larger width. -/
  | invalidWidth
  /-- SHL or SHR with a negative ARG. -/
  | invalidShiftAmount
  /-- GETBIT with an index outside the width. -/
  | indexOutOfRange
  /-- Reserved: never produced, since text parsing is out of scope (00_scope.md R7). -/
  | parseError
  /-- FROMNAT or TONAT of a value that does not fit. -/
  | valueOutOfRange
  /-- A source register is empty. -/
  | uninitialized
  /-- Unassigned opcode, non-zero reserved field, or a violation of R100. -/
  | illegalCommand
deriving DecidableEq, Repr

/-- What stops a step, or fails one host access. -/
inductive Fault where
  /-- Raised by a host access of the wrong width or alignment, or at offset 0x18 or 0x1C (20_memory.md R65). It is the
  fault of that access: it reaches the host as the access's response and the machine goes on, unchanged (R248). Safe. -/
  | busError
  /-- Raised by the step in which the host issues an access outside the window, the reset input asserted or not. The
  MWAU does not answer it, and what the platform does with it is outside the spec (20_memory.md R61, 93), so the model
  stops. Safe. Log entry 8. -/
  | outsideWindow
deriving DecidableEq, Repr

/-- Why the model has no meaning for a step. -/
inductive Refusal where
  /-- Raised by the dispatch for a command whose meaning is not written. Safe. No arm answers with it. -/
  | notModelled (mnemonic : String)
  /-- Raised by a step in which the reset input is asserted while the host makes an access to the window, or has one
  held: "the model must treat such an access as refused" (70 R271). Safe. Log entry 6. -/
  | accessDuringReset
deriving DecidableEq, Repr

/-- What a host access does. -/
inductive AccessOp where
  | read
  | write (v : Word)
deriving DecidableEq, Repr

/-- One host access: `MemRead(addr, bits/8)` or `MemWrite(addr, bits/8, v)` (20_memory.md R60). Only 32-bit accesses
reach a register, so the word written is all a write carries (R65). -/
structure Access where
  addr : Nat
  bits : Nat
  op : AccessOp
deriving DecidableEq, Repr

/-- What the host gets for an access. -/
inductive Response where
  /-- The word a read returned. -/
  | data (v : Word)
  /-- The write completed. -/
  | done
  /-- The access failed; the only fault of an access is the bus error (20_memory.md R65). -/
  | fault (f : Fault)
deriving DecidableEq, Repr

/-- What host and platform do in one core cycle: the level of the reset input (70 R270) and the access the host issues,
if any. Log entry 1. -/
structure Cycle where
  resetLine : Bool
  issue : Option Access
deriving DecidableEq, Repr

/-- A cycle in which host and platform do nothing. -/
def Cycle.quiet : Cycle := { resetLine := false, issue := none }

/-- The in-flight command (10_state.md R46): its word, and the core cycles still to pass before the cycle that commits
it (`left = 0`: the next cycle commits it). -/
structure InFlight where
  word : Word
  left : Nat
deriving DecidableEq, Repr

/-- The state of one MWAU (10_state.md R30, R52). ID and CTRL hold no storage: ID reads a constant (R41), and every bit
of CTRL reads 0 (R42). STATUS.BUSY is the presence of an in-flight command (R46) and STATUS.ERR says that ERRCODE is not
0 (R43), so both are views. The last two fields stand outside the block (log entries 1, 2). -/
structure State where
  /-- V[0..15], the value registers (R31). -/
  v : Vector VReg 16
  /-- DATA[0..7], the data window (R37). -/
  data : Vector Word 8
  /-- ARG (R38). -/
  arg : Word
  /-- RES (R39). -/
  res : Word
  /-- CMD, the last accepted command word (R40). -/
  cmd : Word
  /-- STATUS.ERRCODE of the last committed command (R43). -/
  errcode : BitVec 4
  /-- STATUS.LASTOP, the opcode field of the last committed command (R43). -/
  lastop : Opcode
  /-- The in-flight command, if any (R46). -/
  inflight : Option InFlight
  /-- Host accesses issued and not yet performed, oldest first (R51(b), 20_memory.md R67). -/
  pending : List Access
  /-- What host and platform do from here on, one entry per core cycle; after its end they do nothing. -/
  inputs : List Cycle
  /-- What the host's performed accesses were answered, oldest first. -/
  responses : List Response
deriving DecidableEq, Repr

/-- The machine right after reset (10_state.md R52): every value register empty, every host register 0, no command in
flight. Nothing is issued and nothing was answered (log entry 24). -/
def State.reset : State where
  v := Vector.replicate 16 VReg.empty
  data := Vector.replicate 8 0
  arg := 0
  res := 0
  cmd := 0
  errcode := 0
  lastop := 0
  inflight := none
  pending := []
  inputs := []
  responses := []

end Sys2Proof.Machine
end

