-- ==== Sys2Proof/Machine/Operands.lean ====
section
/-! DEFINITION. Values: widths, the signed reading, canonicalization, and how a command reads its operands
(00_scope.md R15 to R20, R28; 30_encoding.md R92 to R95). -/

namespace Sys2Proof.Machine

/-- `W(wc) = 8 * (wc + 1)` (00_scope.md R17). -/
def widthOf (wc : WidthCode) : Nat := 8 * (wc.toNat + 1)

/-- `N(wc) = ceil(W(wc) / 32)`, the word count (00_scope.md R11, R17). -/
def wordsOf (wc : WidthCode) : Nat := (widthOf wc + 31) / 32

/-- `trunc_m(x) = x mod 2^m`, for any integer `x` (00_scope.md R15). -/
def truncBits (m : Nat) (x : Int) : Nat := (x % (2 : Int) ^ m).toNat

/-- `sval` of a `w`-bit pattern: its two's-complement value (00_scope.md R16). -/
def sval (w p : Nat) : Int := if p.testBit (w - 1) then (p : Int) - (2 : Int) ^ w else p

/-- `inrange(x, w, sg)` (00_scope.md R28). -/
def inRange (x : Int) (w : Nat) (sg : Bool) : Bool :=
  if sg then decide (-(2 : Int) ^ (w - 1) ≤ x ∧ x ≤ (2 : Int) ^ (w - 1) - 1)
  else decide (0 ≤ x ∧ x ≤ (2 : Int) ^ w - 1)

/-- The number whose 32-bit words are given, the least significant first: `Wd[n-1] ∥ ... ∥ Wd[0]` (00_scope.md R19). -/
def wordsNat : List Word → Nat
  | [] => 0
  | x :: rest => x.toNat + 2 ^ 32 * wordsNat rest

/-- Word `j` of a pattern, `Q[32j+31:32j]` (00_scope.md R20). -/
def wordAt (q j : Nat) : Word := BitVec.ofNat 32 (q >>> (32 * j))

/-- The pattern with its padding bits `w` to `32n-1` filled for the signedness (00_scope.md R20, Q). -/
def padded (wc : WidthCode) (sg : Bool) (p : Nat) : Nat :=
  if sg && p.testBit (widthOf wc - 1) then p + (2 ^ (32 * wordsOf wc) - 2 ^ widthOf wc) else p

/-- `mk(wc, sg, x)`: the canonical value of the integer `x` reduced modulo `2^w` (00_scope.md R20, R21). -/
def mk (wc : WidthCode) (sg : Bool) (x : Int) : VReg where
  valid := true
  wc := wc
  sg := sg
  wd := Vector.ofFn fun j : Fin 8 =>
    if j.val < wordsOf wc then wordAt (padded wc sg (truncBits (widthOf wc) x)) j.val else 0

/-- The words a value occupies, `Wd[0..n-1]` (10_state.md R32). -/
def valueWords (a : VReg) : List Word := a.wd.toList.take (wordsOf a.wc)

/-- `pat(a) = P[w-1:0]`, the value bits (00_scope.md R19). -/
def pat (a : VReg) : Nat := wordsNat (valueWords a) % 2 ^ widthOf a.wc

/-- `val(a)`: signed or unsigned by SG (00_scope.md R19). -/
def val (a : VReg) : Int := if a.sg then sval (widthOf a.wc) (pat a) else pat a

/-- `V[i]`: the record of value register `i` (00_scope.md R18). -/
def State.readV (s : State) (i : RegIx) : VReg := s.v[i.toNat]'i.isLt

/-- `src(i)`: a source operand; an empty register raises Uninitialized (00_scope.md R28, 10_state.md R34). -/
def src (s : State) (i : RegIx) : Except ErrKind VReg :=
  if (s.readV i).valid then .ok (s.readV i) else .error .uninitialized

/-- `same(a, b)`: operands of different types raise TypeMismatch (00_scope.md R28, 90_conflicts.md C8). -/
def same (a b : VReg) : Except ErrKind Unit :=
  if a.wc = b.wc ∧ a.sg = b.sg then .ok () else .error .typeMismatch

/-- `sarg`: ARG as a two's-complement integer (00_scope.md R28, 10_state.md R38). -/
def sarg (s : State) : Int := sval 32 s.arg.toNat

/-- The first `n` words of DATA as one pattern, `DATA[n-1] ∥ ... ∥ DATA[0]` (20_memory.md R63). -/
def dataPattern (s : State) (n : Nat) : Nat := wordsNat (s.data.toList.take n)

/-- The bits of a native width (30_encoding.md R94). -/
def nativeBits : NativeWidth → Nat
  | .n32 => 32
  | .n64 => 64

/-- The DATA words a native integer occupies (20_memory.md R63). -/
def nativeWords : NativeWidth → Nat
  | .n32 => 1
  | .n64 => 2

end Sys2Proof.Machine
end

