-- ==== Sys2Proof/Machine/Flags.lean ====
section
/-! DEFINITION. The MWAU has no condition flags (10_state.md R48). This file holds what stands in their place: the error
codes and the STATUS word (R43, 60_exceptions.md R241), and the encodings of the scalar answers in RES. -/

namespace Sys2Proof.Machine

/-- The error code of a kind (60_exceptions.md R241). -/
def errCode : ErrKind → BitVec 4
  | .typeMismatch => 1
  | .divisionByZero => 2
  | .invalidWidth => 3
  | .invalidShiftAmount => 4
  | .indexOutOfRange => 5
  | .parseError => 6
  | .valueOutOfRange => 7
  | .uninitialized => 8
  | .illegalCommand => 9

/-- STATUS.BUSY: a command is in flight (10_state.md R46). -/
def busy (s : State) : Bool := s.inflight.isSome

/-- STATUS.ERR: 1 iff ERRCODE is not 0 (10_state.md R43). -/
def errBit (s : State) : Bool := s.errcode != 0

/-- The STATUS register (10_state.md R43): LASTOP in 13:8, ERRCODE in 7:4, ERR in 1, BUSY in 0, every other bit 0. -/
def statusWord (s : State) : Word :=
  (0 : BitVec 18) ++ s.lastop ++ s.errcode ++ (0 : BitVec 2) ++ BitVec.ofBool (errBit s) ++ BitVec.ofBool (busy s)

/-- A bit or boolean answer in RES: 0 or 1 (40_wordvector.md R126, R128, decision D29). -/
def boolWord (b : Bool) : Word := if b then 1 else 0

/-- The order of two values in RES: 0 equal, 1 less, 2 greater (42_shift_logic_compare.md R192). -/
def orderWord (x y : Int) : Word := if x = y then 0 else if x < y then 1 else 2

/-- The type of a register in RES: VALID in 31, the word count in 19:16, SG in 9, the width in 8:0; 0 for an empty
register (40_wordvector.md R132). -/
def typeWord (r : VReg) : Word :=
  if r.valid then
    (1 <<< 31) ||| (BitVec.ofNat 32 (wordsOf r.wc) <<< 16) ||| (boolWord r.sg <<< 9) ||| BitVec.ofNat 32 (widthOf r.wc)
  else 0

end Sys2Proof.Machine
end

