-- ==== Sys2Proof/Machine/Ops.lean ====
section
/-! DEFINITION. The shared operations: writing the register file and DATA, and the two completions of a command
(00_scope.md R18, 60_exceptions.md R245, R246). The MWAU has no traps (R250); raising an error kind is its one
exceptional outcome, and there is no return from it (R251). -/

namespace Sys2Proof.Machine

/-- `V[i] <- r` (00_scope.md R18). -/
def State.writeV (s : State) (i : RegIx) (r : VReg) : State := { s with v := s.v.set i.toNat r i.isLt }

/-- `DATA[k] <- x`. -/
def State.writeData (s : State) (k : Fin 8) (x : Word) : State := { s with data := s.data.set k.val x k.isLt }

/-- `DATA[0..7] <- d`, all eight words. -/
def State.writeDataAll (s : State) (d : Vector Word 8) : State := { s with data := d }

/-- `RES <- x`. -/
def State.writeRes (s : State) (x : Word) : State := { s with res := x }

/-- Success completion: ERRCODE and with it ERR become 0, LASTOP the opcode, BUSY 0 (60_exceptions.md R246). -/
def State.succeed (s : State) (op : Opcode) : State := { s with errcode := 0, lastop := op, inflight := none }

/-- Error completion: ERRCODE becomes the kind's code and ERR 1, LASTOP the opcode, BUSY 0; nothing else changes
(60_exceptions.md R245). -/
def State.fail (s : State) (op : Opcode) (e : ErrKind) : State :=
  { s with errcode := errCode e, lastop := op, inflight := none }

/-- The commit of a command with opcode `op`: its rule's writes and the success completion, or, where the rule raised an
error kind, the error completion of the state as it was (10_state.md R46, 60_exceptions.md R245, R246). -/
def complete (op : Opcode) (s : State) (r : Except ErrKind State) : Host.Outcome State Fault Refusal :=
  match r with
  | .ok t => .next (t.succeed op)
  | .error e => .next (s.fail op e)

end Sys2Proof.Machine
end

