-- ==== Sys2Proof/Machine/Convert.lean ====
section
/-! DEFINITION. WIDEN, NARROW, REINT, FROMNAT and TONAT (43_conversion.md). -/

namespace Sys2Proof.Machine

/-- WIDEN (43 R210): the value kept at a width that is not smaller. -/
def execWiden (rd rs1 : RegIx) (wc : WidthCode) (s : State) : Host.Outcome State Fault Refusal :=
  complete (opcodeOf (.widen rd rs1 wc)) s do
    let a ← src s rs1
    if widthOf wc < widthOf a.wc then .error .invalidWidth
    else .ok (s.writeV rd (mk wc a.sg (val a)))

/-- NARROW (43 R213): the low bits kept at a width that is not larger. -/
def execNarrow (rd rs1 : RegIx) (wc : WidthCode) (s : State) : Host.Outcome State Fault Refusal :=
  complete (opcodeOf (.narrow rd rs1 wc)) s do
    let a ← src s rs1
    if widthOf wc > widthOf a.wc then .error .invalidWidth
    else .ok (s.writeV rd (mk wc a.sg (pat a)))

/-- REINT (43 R216, R217): the same width and value bits, the other signedness. -/
def execReint (rd rs1 : RegIx) (s : State) : Host.Outcome State Fault Refusal :=
  complete (opcodeOf (.reint rd rs1)) s do
    let a ← src s rs1
    .ok (s.writeV rd (mk a.wc (!a.sg) (pat a)))

/-- The native integer in DATA, read with the target's signedness (43 R219). -/
def nativeValue (s : State) (n : NativeWidth) (sg : Bool) : Int :=
  if sg then sval (nativeBits n) (dataPattern s (nativeWords n)) else dataPattern s (nativeWords n)

/-- FROMNAT (43 R219 to R221): strict, a value that does not fit raises ValueOutOfRange. -/
def execFromnat (rd : RegIx) (wc : WidthCode) (sg : Bool) (n : NativeWidth) (s : State) :
    Host.Outcome State Fault Refusal :=
  complete (opcodeOf (.fromnat rd wc sg n)) s <|
    if inRange (nativeValue s n sg) (widthOf wc) sg then .ok (s.writeV rd (mk wc sg (nativeValue s n sg)))
    else .error .valueOutOfRange

/-- The native pattern `u` to DATA[0], and for 64 bits DATA[1] (43 R222). -/
def State.writeNative (s : State) (n : NativeWidth) (u : Nat) : State :=
  match n with
  | .n32 => s.writeData 0 (wordAt u 0)
  | .n64 => (s.writeData 0 (wordAt u 0)).writeData 1 (wordAt u 1)

/-- TONAT (43 R222, R223): strict; the native signedness is the value's own. -/
def execTonat (rs1 : RegIx) (n : NativeWidth) (s : State) : Host.Outcome State Fault Refusal :=
  complete (opcodeOf (.tonat rs1 n)) s do
    let a ← src s rs1
    if inRange (val a) (nativeBits n) a.sg then .ok (s.writeNative n (truncBits (nativeBits n) (val a)))
    else .error .valueOutOfRange

end Sys2Proof.Machine
end

