-- ==== Sys2Proof/Machine/Arith.lean ====
section
/-! DEFINITION. ADD, SUB, MUL and DIVREM (41_arith.md). -/

namespace Sys2Proof.Machine

/-- The two operands of one type that every two-operand command reads, rs1 before rs2 (00_scope.md R28,
60_exceptions.md R243). -/
def srcPair (s : State) (rs1 rs2 : RegIx) : Except ErrKind (VReg × VReg) := do
  let a ← src s rs1
  let b ← src s rs2
  same a b
  .ok (a, b)

/-- A two-operand command that writes `f a b` to V[rd], reduced and canonicalized at the operands' type. -/
def binaryToV (op : Opcode) (rd rs1 rs2 : RegIx) (f : VReg → VReg → Int) (s : State) :
    Host.Outcome State Fault Refusal :=
  complete op s do
    let (a, b) ← srcPair s rs1 rs2
    .ok (s.writeV rd (mk a.wc a.sg (f a b)))

/-- The quotient of DIVREM: rounded down for unsigned types, toward zero for signed ones (41_arith.md R160). -/
def quotient (sg : Bool) (x y : Int) : Int := if sg then x.tdiv y else x.fdiv y

/-- ADD (41_arith.md R150). -/
def execAdd (rd rs1 rs2 : RegIx) (s : State) : Host.Outcome State Fault Refusal :=
  binaryToV (opcodeOf (.add rd rs1 rs2)) rd rs1 rs2 (fun a b => val a + val b) s

/-- SUB (41_arith.md R153). -/
def execSub (rd rs1 rs2 : RegIx) (s : State) : Host.Outcome State Fault Refusal :=
  binaryToV (opcodeOf (.sub rd rs1 rs2)) rd rs1 rs2 (fun a b => val a - val b) s

/-- MUL (41_arith.md R156): the low `w` bits of the exact product. -/
def execMul (rd rs1 rs2 : RegIx) (s : State) : Host.Outcome State Fault Refusal :=
  binaryToV (opcodeOf (.mul rd rs1 rs2)) rd rs1 rs2 (fun a b => val a * val b) s

/-- DIVREM (41_arith.md R160 to R166): quotient to V[rd], remainder to V[rd2], in one commit. A command with rd = rd2
is illegal (30_encoding.md R100); no word decodes to it (log entry 15). -/
def execDivrem (rd rs1 rs2 rd2 : RegIx) (s : State) : Host.Outcome State Fault Refusal :=
  complete (opcodeOf (.divrem rd rs1 rs2 rd2)) s <|
    if rd = rd2 then .error .illegalCommand
    else do
      let (a, b) ← srcPair s rs1 rs2
      if val b = 0 then .error .divisionByZero
      else
        let q := quotient a.sg (val a) (val b)
        let r := val a - q * val b
        .ok ((s.writeV rd (mk a.wc a.sg q)).writeV rd2 (mk a.wc a.sg r))

end Sys2Proof.Machine
end

