-- ==== Sys2Proof/Machine/ShiftLogic.lean ====
section
/-! DEFINITION. SHL, SHR, AND, OR, XOR, NOT and CMP (42_shift_logic_compare.md). -/

namespace Sys2Proof.Machine

/-- SHL's result before canonicalization (42 R180, R182): zero from the right, 0 for an amount of `w` or more. -/
def shiftLeft (a : VReg) (amount : Nat) : Int :=
  if amount ≥ widthOf a.wc then 0 else (pat a : Int) * (2 : Int) ^ amount

/-- SHR's result before canonicalization (42 R183): logical for unsigned types, arithmetic for signed ones. -/
def shiftRight (a : VReg) (amount : Nat) : Int :=
  if a.sg then (val a).fdiv ((2 : Int) ^ min amount (widthOf a.wc))
  else if amount ≥ widthOf a.wc then 0
  else (pat a : Int).fdiv ((2 : Int) ^ amount)

/-- A shift of V[rs1] by ARG into V[rd]; a negative amount raises InvalidShiftAmount (42 R180, R183, R186). -/
def shiftToV (op : Opcode) (rd rs1 : RegIx) (f : VReg → Nat → Int) (s : State) : Host.Outcome State Fault Refusal :=
  complete op s do
    let a ← src s rs1
    if sarg s < 0 then .error .invalidShiftAmount
    else .ok (s.writeV rd (mk a.wc a.sg (f a (sarg s).toNat)))

/-- SHL (42 R180). -/
def execShl (rd rs1 : RegIx) (s : State) : Host.Outcome State Fault Refusal :=
  shiftToV (opcodeOf (.shl rd rs1)) rd rs1 shiftLeft s

/-- SHR (42 R183). -/
def execShr (rd rs1 : RegIx) (s : State) : Host.Outcome State Fault Refusal :=
  shiftToV (opcodeOf (.shr rd rs1)) rd rs1 shiftRight s

/-- AND (42 R187). -/
def execAnd (rd rs1 rs2 : RegIx) (s : State) : Host.Outcome State Fault Refusal :=
  binaryToV (opcodeOf (.and rd rs1 rs2)) rd rs1 rs2 (fun a b => ((pat a &&& pat b : Nat) : Int)) s

/-- OR (42 R188). -/
def execOr (rd rs1 rs2 : RegIx) (s : State) : Host.Outcome State Fault Refusal :=
  binaryToV (opcodeOf (.or rd rs1 rs2)) rd rs1 rs2 (fun a b => ((pat a ||| pat b : Nat) : Int)) s

/-- XOR (42 R189). -/
def execXor (rd rs1 rs2 : RegIx) (s : State) : Host.Outcome State Fault Refusal :=
  binaryToV (opcodeOf (.xor rd rs1 rs2)) rd rs1 rs2 (fun a b => ((pat a ^^^ pat b : Nat) : Int)) s

/-- NOT (42 R190): every one of bits w-1..0 inverted. -/
def execNot (rd rs1 : RegIx) (s : State) : Host.Outcome State Fault Refusal :=
  complete (opcodeOf (.not rd rs1)) s do
    let a ← src s rs1
    .ok (s.writeV rd (mk a.wc a.sg (((2 : Int) ^ widthOf a.wc - 1) - pat a)))

/-- CMP (42 R192): the order of the values in RES. -/
def execCmp (rs1 rs2 : RegIx) (s : State) : Host.Outcome State Fault Refusal :=
  complete (opcodeOf (.cmp rs1 rs2)) s do
    let (a, b) ← srcPair s rs1 rs2
    .ok (s.writeRes (orderWord (val a) (val b)))

end Sys2Proof.Machine
end

