-- ==== Sys2Proof/Machine/WordVector.lean ====
section
/-! DEFINITION. ZERO, LDW, STW, GETBIT, ISZERO, SIGNBIT and TYPEOF (40_wordvector.md). -/

namespace Sys2Proof.Machine

/-- ZERO (40_wordvector.md R120). -/
def execZero (rd : RegIx) (wc : WidthCode) (sg : Bool) (s : State) : Host.Outcome State Fault Refusal :=
  complete (opcodeOf (.zero rd wc sg)) s (.ok (s.writeV rd (mk wc sg 0)))

/-- LDW (40_wordvector.md R121, R122): InvalidWidth unless `cnt` is the word count of the type. -/
def execLdw (rd : RegIx) (wc : WidthCode) (sg : Bool) (cnt : BitVec 4) (s : State) : Host.Outcome State Fault Refusal :=
  complete (opcodeOf (.ldw rd wc sg cnt)) s <|
    if cnt.toNat = wordsOf wc then .ok (s.writeV rd (mk wc sg (dataPattern s (wordsOf wc))))
    else .error .invalidWidth

/-- STW (40_wordvector.md R124): all eight stored words, padding included. -/
def execStw (rs1 : RegIx) (s : State) : Host.Outcome State Fault Refusal :=
  complete (opcodeOf (.stw rs1)) s do
    let a ← src s rs1
    .ok (s.writeDataAll a.wd)

/-- GETBIT (40_wordvector.md R126, R127). -/
def execGetbit (rs1 : RegIx) (s : State) : Host.Outcome State Fault Refusal :=
  complete (opcodeOf (.getbit rs1)) s do
    let a ← src s rs1
    if sarg s < 0 ∨ sarg s ≥ widthOf a.wc then .error .indexOutOfRange
    else .ok (s.writeRes (boolWord ((pat a).testBit (sarg s).toNat)))

/-- ISZERO (40_wordvector.md R128). -/
def execIszero (rs1 : RegIx) (s : State) : Host.Outcome State Fault Refusal :=
  complete (opcodeOf (.iszero rs1)) s do
    let a ← src s rs1
    .ok (s.writeRes (boolWord (pat a == 0)))

/-- SIGNBIT (40_wordvector.md R130, R131): 0 for an unsigned type. -/
def execSignbit (rs1 : RegIx) (s : State) : Host.Outcome State Fault Refusal :=
  complete (opcodeOf (.signbit rs1)) s do
    let a ← src s rs1
    .ok (s.writeRes (boolWord (a.sg && (pat a).testBit (widthOf a.wc - 1))))

/-- TYPEOF (40_wordvector.md R132): an empty register is no error. -/
def execTypeof (rs1 : RegIx) (s : State) : Host.Outcome State Fault Refusal :=
  complete (opcodeOf (.typeof rs1)) s (.ok (s.writeRes (typeWord (s.readV rs1))))

end Sys2Proof.Machine
end

