-- ==== Sys2Proof/Machine/Dispatch.lean ====
section
/-! DEFINITION. The commit of a command: one arm per command. -/

namespace Sys2Proof.Machine

def exec (i : Instr) (s : State) : Host.Outcome State Fault Refusal :=
  match i with
  -- 40_wordvector.md
  | .zero rd wc sg => Sys2Proof.Machine.execZero rd wc sg s
  | .ldw rd wc sg cnt => Sys2Proof.Machine.execLdw rd wc sg cnt s
  | .stw rs1 => Sys2Proof.Machine.execStw rs1 s
  | .getbit rs1 => Sys2Proof.Machine.execGetbit rs1 s
  | .iszero rs1 => Sys2Proof.Machine.execIszero rs1 s
  | .signbit rs1 => Sys2Proof.Machine.execSignbit rs1 s
  | .typeof rs1 => Sys2Proof.Machine.execTypeof rs1 s
  -- 41_arith.md
  | .add rd rs1 rs2 => Sys2Proof.Machine.execAdd rd rs1 rs2 s
  | .sub rd rs1 rs2 => Sys2Proof.Machine.execSub rd rs1 rs2 s
  | .mul rd rs1 rs2 => Sys2Proof.Machine.execMul rd rs1 rs2 s
  | .divrem rd rs1 rs2 rd2 => Sys2Proof.Machine.execDivrem rd rs1 rs2 rd2 s
  -- 42_shift_logic_compare.md
  | .shl rd rs1 => Sys2Proof.Machine.execShl rd rs1 s
  | .shr rd rs1 => Sys2Proof.Machine.execShr rd rs1 s
  | .and rd rs1 rs2 => Sys2Proof.Machine.execAnd rd rs1 rs2 s
  | .or rd rs1 rs2 => Sys2Proof.Machine.execOr rd rs1 rs2 s
  | .xor rd rs1 rs2 => Sys2Proof.Machine.execXor rd rs1 rs2 s
  | .not rd rs1 => Sys2Proof.Machine.execNot rd rs1 s
  | .cmp rs1 rs2 => Sys2Proof.Machine.execCmp rs1 rs2 s
  -- 43_conversion.md
  | .widen rd rs1 wc => Sys2Proof.Machine.execWiden rd rs1 wc s
  | .narrow rd rs1 wc => Sys2Proof.Machine.execNarrow rd rs1 wc s
  | .reint rd rs1 => Sys2Proof.Machine.execReint rd rs1 s
  | .fromnat rd wc sg native => Sys2Proof.Machine.execFromnat rd wc sg native s
  | .tonat rs1 native => Sys2Proof.Machine.execTonat rs1 native s

end Sys2Proof.Machine
end

