-- ==== Sys2Proof/Machine/Window.lean ====
section
/-! DEFINITION. The host window: which register an access reaches, what it reads or writes, the stall, and reset
(10_state.md R37 to R45, 20_memory.md R60 to R71, 70 R270 to R272). -/

namespace Sys2Proof.Machine

/-- The registers of the window (10_state.md R45). -/
inductive WinReg where
  | id
  | ctrl
  | status
  | cmd
  | arg
  | res
  | data (k : Fin 8)
deriving DecidableEq, Repr

/-- The register at an offset (10_state.md R45); none at 0x18, 0x1C, between words or outside the window. -/
def regAt (off : Nat) : Option WinReg :=
  match off with
  | 0x00 => some .id
  | 0x04 => some .ctrl
  | 0x08 => some .status
  | 0x0C => some .cmd
  | 0x10 => some .arg
  | 0x14 => some .res
  | 0x20 => some (.data 0)
  | 0x24 => some (.data 1)
  | 0x28 => some (.data 2)
  | 0x2C => some (.data 3)
  | 0x30 => some (.data 4)
  | 0x34 => some (.data 5)
  | 0x38 => some (.data 6)
  | 0x3C => some (.data 7)
  | _ => none

/-- The offset of a register (10_state.md R45). -/
def regOffset : WinReg → Nat
  | .id => 0x00
  | .ctrl => 0x04
  | .status => 0x08
  | .cmd => 0x0C
  | .arg => 0x10
  | .res => 0x14
  | .data k => 0x20 + 4 * k.val

/-- The platform's decoder routes MWAU_BASE to MWAU_BASE + 0x3F to the block (20_memory.md R61). -/
def inWindow (a : Access) : Bool := Config.mwauBase ≤ a.addr && a.addr < Config.mwauBase + Config.windowBytes

/-- The register an access in the window reaches; none is a bus error: a width other than 32 bits, an offset that is not
a multiple of 4, or a reserved offset (20_memory.md R65). -/
def accessTarget (a : Access) : Option WinReg :=
  if a.bits = 32 ∧ (a.addr - Config.mwauBase) % 4 = 0 then regAt (a.addr - Config.mwauBase) else none

/-- What a read of a register returns (10_state.md R37 to R43). -/
def readReg (s : State) : WinReg → Word
  | .id => Config.idValue
  | .ctrl => 0
  | .status => statusWord s
  | .cmd => s.cmd
  | .arg => s.arg
  | .res => s.res
  | .data k => s.data[k.val]'k.isLt

/-- The byte on lane `b` of a register: bits 8b+7 to 8b (20_memory.md R62). -/
def byteLane (s : State) (r : WinReg) (b : Fin 4) : Byte := (readReg s r).extractLsb' (8 * b.val) 8

/-- Every piece of the MWAU's state at its reset value (10_state.md R52); what stands outside the block, the accesses
the host issued included, is kept (log entry 14). -/
def State.resetBlock (s : State) : State :=
  { State.reset with pending := s.pending, inputs := s.inputs, responses := s.responses }

/-- Acceptance: `c` becomes CMD and the in-flight command, to commit after LAT core cycles (10_state.md R46). -/
def State.accept (s : State) (c : Word) : State :=
  { s with cmd := c, inflight := some { word := c, left := Config.lat c s.v s.arg s.data - 1 } }

/-- What a write to a register does (10_state.md R37 to R43, 20_memory.md R66): ID, STATUS and RES ignore it, CMD
accepts a command, and a 1 in bit 0 of CTRL is the soft reset (70 R272). -/
def writeReg (s : State) (r : WinReg) (x : Word) : State :=
  match r with
  | .id => s
  | .ctrl => if x.getLsbD 0 then s.resetBlock else s
  | .status => s
  | .cmd => s.accept x
  | .arg => { s with arg := x }
  | .res => s
  | .data k => s.writeData k x

/-- One access performed: the state after it and the host's response (20_memory.md R65, R66, R68). A bus error changes
no state (60_exceptions.md R248). -/
def perform (s : State) (a : Access) : State × Response :=
  match accessTarget a with
  | none => (s, .fault .busError)
  | some r =>
    match a.op with
    | .read => (s, .data (readReg s r))
    | .write x => (writeReg s r x, .done)

/-- A read of STATUS, the one access that is never held (20_memory.md R67). -/
def isStatusRead (a : Access) : Bool := accessTarget a == some .status && a.op == .read

/-- Perform the oldest pending access, if there is one, and give the host its response. -/
def State.serve (s : State) : State :=
  match s.pending with
  | [] => s
  | a :: rest =>
    let (t, r) := perform { s with pending := rest } a
    { t with responses := t.responses ++ [r] }

/-- What the window serves while a command is in flight: the oldest pending access if it is a STATUS read, else nothing
(20_memory.md R67, R71(1)). Log entries 9, 17. -/
def State.serveBusy (s : State) : State :=
  match s.pending with
  | [] => s
  | a :: _ => if isStatusRead a then s.serve else s

end Sys2Proof.Machine
end

