-- ==== Sys2Proof/Machine/Cycle.lean ====
section
/-! DEFINITION. One core cycle: what host and platform do in it, and what the core does (10_state.md R46,
20_memory.md R67, 70 R270, R271). -/

namespace Sys2Proof.Machine

/-- What host and platform do in this cycle; nothing once `inputs` has ended. Log entries 1, 22. -/
def State.thisCycle (s : State) : Cycle :=
  match s.inputs with
  | [] => Cycle.quiet
  | c :: _ => c

/-- The state with this cycle's input taken off and its access, if any, issued: it waits behind the accesses issued
before it (20_memory.md R71(1)). -/
def State.takeInput (s : State) : State :=
  { s with inputs := s.inputs.tail, pending := s.pending ++ s.thisCycle.issue.toList }

/-- The commit of the command word `c`: the meaning of the command it decodes to, or, for an illegal word, the error
completion with IllegalCommand, which reads no operands (30_encoding.md R98 to R101). -/
def commitWord (c : Word) (s : State) : Host.Outcome State Fault Refusal :=
  match decode c with
  | .ok i => exec i s
  | .error _ => complete (opField c) s (.error .illegalCommand)

/-- A cycle without reset. Idle: the oldest pending access is performed. In flight: a STATUS read that is the oldest
pending access is answered from the state before the commit, and the command comes one cycle closer to its commit, or
commits (10_state.md R46, 20_memory.md R67). Log entries 3, 18. -/
def coreCycle (s : State) : Host.Outcome State Fault Refusal :=
  match s.inflight with
  | none => .next s.serve
  | some f =>
    match f.left with
    | 0 => commitWord f.word s.serveBusy
    | k + 1 => .next { s.serveBusy with inflight := some { f with left := k } }

/-- One core cycle. An access outside the window is not the MWAU's (20_memory.md R61) and the model stops, with the
reset input high or low: R271 speaks of accesses to the window only, so the order of these two checks is the model's
(DESIGN CHOICE, log entry 8). With the reset input asserted every piece of state takes its reset value, a command in
flight is abandoned (70 R270), and a host access is refused (70 R271, log entry 6). -/
def cycleStep (s : State) : Host.Outcome State Fault Refusal :=
  if s.thisCycle.issue.all inWindow then
    if s.thisCycle.resetLine then
      if s.takeInput.pending = [] then .next s.takeInput.resetBlock else .refused .accessDuringReset
    else coreCycle s.takeInput
  else .fault .outsideWindow

/-- `s` with the word `c` accepted as a command and every cycle of its latency but the last one passed, in a cycle in
which host and platform do nothing: the next step commits `c` (log entry 11). -/
def State.presentCommand (s : State) (c : Word) : State :=
  { s with cmd := c, inflight := some { word := c, left := 0 }, inputs := Cycle.quiet :: s.inputs }

/-- The end of a host program's run: the host has nothing left to do and BUSY = 0 (70 R283). -/
def State.runEnded (s : State) : Bool := s.inputs.isEmpty && s.pending.isEmpty && !busy s

end Sys2Proof.Machine
end

