-- ==== Sys2Proof/Machine/Step.lean ====
section
/-! DEFINITION. One step is one core cycle; and where the host places a command to be run next. -/

namespace Sys2Proof.Machine

/-- One core cycle. -/
def step (s : State) : Host.Outcome State Fault Refusal := cycleStep s

/-- `s` with a command word in flight that the next step commits (log entry 11). -/
def State.withFetchWord (s : State) (nbits w : Nat) : State := s.presentCommand (BitVec.ofNat 32 (w % 2 ^ nbits))

end Sys2Proof.Machine
end

