-- ==== Sys2Proof/Machine/Datapath.lean ====
section
/-! DEFINITION. The reference datapaths: word-by-word computations that give the results of the rules (41_arith.md R151,
R154, R157, R165; 42_shift_logic_compare.md R185, R191, R193). They are not architectural (decision D42): no meaning uses
them. Words stand in lists, the least significant first. -/

namespace Sys2Proof.Machine

/-- The value of type (wc, sg) whose stored words, before canonicalization, are `ws`. -/
def mkWords (wc : WidthCode) (sg : Bool) (ws : List Word) : VReg := mk wc sg (wordsNat ws)

/-- The ripple adder: carry `c` into the lowest word, the final carry discarded (41 R151). -/
def rippleAdd : List Word → List Word → Nat → List Word
  | x :: xs, y :: ys, c =>
    BitVec.ofNat 32 ((x.toNat + y.toNat + c) % 2 ^ 32) :: rippleAdd xs ys ((x.toNat + y.toNat + c) >>> 32)
  | _, _, _ => []

/-- ADD through the ripple adder (41 R151). -/
def datapathAdd (a b : VReg) : VReg := mkWords a.wc a.sg (rippleAdd (valueWords a) (valueWords b) 0)

/-- The borrow-propagating subtractor: borrow `bo` (0 or 1) from the lowest word (41 R154). -/
def rippleSub : List Word → List Word → Int → List Word
  | x :: xs, y :: ys, bo =>
    let d : Int := (x.toNat : Int) - y.toNat - bo
    BitVec.ofNat 32 (truncBits 32 d) :: rippleSub xs ys (if d < 0 then 1 else 0)
  | _, _, _ => []

/-- SUB through the borrow-propagating subtractor (41 R154). -/
def datapathSub (a b : VReg) : VReg := mkWords a.wc a.sg (rippleSub (valueWords a) (valueWords b) 0)

/-- One row of the schoolbook multiplier: `x * b` added into the accumulator words `t` that are left, with carry `c`;
the carry out of the last word is discarded (41 R157, the inner loop). -/
def mulRow (x : Word) : List Word → List Word → Nat → List Word
  | t :: ts, b :: bs, c =>
    let u := t.toNat + x.toNat * b.toNat + c
    BitVec.ofNat 32 (u % 2 ^ 32) :: mulRow x ts bs (u >>> 32)
  | _, _, _ => []

/-- The schoolbook multiplier: each word of `a` adds its row to the accumulator from its own position up, after which
the accumulator's lowest word is final (41 R157, the outer loop). -/
def schoolbookMul (b : List Word) : List Word → List Word → List Word
  | x :: xs, acc =>
    match mulRow x acc b 0 with
    | t :: ts => t :: schoolbookMul b xs ts
    | [] => []
  | [], _ => []

/-- MUL through the schoolbook multiplier (41 R157). -/
def datapathMul (a b : VReg) : VReg :=
  mkWords a.wc a.sg (schoolbookMul (valueWords b) (valueWords a) (List.replicate (wordsOf a.wc) 0))

/-- The restoring divider on magnitudes: `k` quotient bits left to find, quotient `q` and remainder `rm` so far
(41 R165). -/
def restoringDiv (x y : Nat) : Nat → Nat → Nat → Nat × Nat
  | 0, q, rm => (q, rm)
  | i + 1, q, rm =>
    let r := 2 * rm + (x.testBit i).toNat
    if r ≥ y then restoringDiv x y i (q + 2 ^ i) (r - y) else restoringDiv x y i q r

/-- DIVREM through the restoring divider, for a divisor that is not 0 (41 R165): the quotient and the remainder. -/
def datapathDivrem (a b : VReg) : VReg × VReg :=
  let qr := restoringDiv (val a).natAbs (val b).natAbs (widthOf a.wc) 0 0
  let q : Int := if a.sg && (decide (val a < 0) != decide (val b < 0)) then -qr.1 else qr.1
  let r : Int := if a.sg && decide (val a < 0) then -qr.2 else qr.2
  (mk a.wc a.sg q, mk a.wc a.sg r)

/-- Word `j` of a list of words, `fill` beyond its end. -/
def wordOr (ws : List Word) (fill : Word) (j : Nat) : Word := ws.getD j fill

/-- Word `j` of a left shift by `k` words and `b` bits: zero from the right (42 R185). -/
def shiftedLeftWord (ws : List Word) (k b j : Nat) : Word :=
  (if k ≤ j then wordOr ws 0 (j - k) <<< b else 0) |||
    (if k + 1 ≤ j ∧ b ≠ 0 then wordOr ws 0 (j - k - 1) >>> (32 - b) else 0)

/-- Word `j` of a right shift by `k` words and `b` bits, with `fill` from the left (42 R185). -/
def shiftedRightWord (ws : List Word) (fill : Word) (k b j : Nat) : Word :=
  (wordOr ws fill (j + k) >>> b) ||| (if b ≠ 0 then wordOr ws fill (j + k + 1) <<< (32 - b) else 0)

/-- SHL of a value by an amount below its width, by word and bit offset (42 R185). -/
def datapathShl (a : VReg) (amount : Nat) : VReg :=
  mkWords a.wc a.sg
    ((List.range (wordsOf a.wc)).map (shiftedLeftWord (valueWords a) (amount >>> 5) (amount % 32)))

/-- The fill of a right shift: the sign bit of a signed value, 0 otherwise (42 R185). -/
def shiftFill (a : VReg) : Word := if a.sg && (pat a).testBit (widthOf a.wc - 1) then BitVec.allOnes 32 else 0

/-- SHR of a value by an amount below its width, by word and bit offset (42 R185). -/
def datapathShr (a : VReg) (amount : Nat) : VReg :=
  mkWords a.wc a.sg
    ((List.range (wordsOf a.wc)).map
      (shiftedRightWord (valueWords a) (shiftFill a) (amount >>> 5) (amount % 32)))

/-- AND, OR and XOR word by word, canonicalized afterward (42 R191). -/
def datapathBitwise (f : Word → Word → Word) (a b : VReg) : VReg :=
  mkWords a.wc a.sg (List.zipWith f (valueWords a) (valueWords b))

/-- NOT word by word, canonicalized afterward (42 R191). -/
def datapathNot (a : VReg) : VReg := mkWords a.wc a.sg ((valueWords a).map fun x => ~~~x)

/-- The unsigned order of two word vectors of one length, decided by the highest word that differs (42 R193). -/
def wordsOrder : List Word → List Word → Ordering
  | x :: xs, y :: ys =>
    match wordsOrder xs ys with
    | .eq => compare x.toNat y.toNat
    | o => o
  | _, _ => .eq

/-- The order of two values of one type: for a signed type the sign bit first, then the words as unsigned numbers
(42 R193). -/
def datapathCmp (a b : VReg) : Ordering :=
  let signA := a.sg && (pat a).testBit (widthOf a.wc - 1)
  let signB := b.sg && (pat b).testBit (widthOf b.wc - 1)
  if signA && !signB then .lt
  else if !signA && signB then .gt
  else wordsOrder (valueWords a) (valueWords b)

end Sys2Proof.Machine
end

