-- ==== Sys2Proof/Machine/Program.lean ====
section
/-! DEFINITION. Host programs: the notation WR and RD, the pseudo-instructions, and the assembler text of a command
(30_encoding.md R102, R103). -/

namespace Sys2Proof.Machine

/-- `WR <reg>, <imm32>` (30 R103). -/
def hostWrite (r : WinReg) (x : Word) : Access :=
  { addr := Config.mwauBase + regOffset r, bits := 32, op := .write x }

/-- `RD <reg>` (30 R103). -/
def hostRead (r : WinReg) : Access := { addr := Config.mwauBase + regOffset r, bits := 32, op := .read }

/-- A command line: the write of its encoding to CMD (30 R103). -/
def hostCommand (i : Instr) : Access := hostWrite .cmd (encode i)

/-- `MOV Vd, Va` (30 R103). -/
def pseudoMov (d a : RegIx) : List Access := [hostCommand (.or d a a)]

/-- `SHLI Vd, Va, n` (30 R103). -/
def pseudoShli (d a : RegIx) (n : Word) : List Access := [hostWrite .arg n, hostCommand (.shl d a)]

/-- `SHRI Vd, Va, n` (30 R103). -/
def pseudoShri (d a : RegIx) (n : Word) : List Access := [hostWrite .arg n, hostCommand (.shr d a)]

/-- `GETBITI Va, i` (30 R103). -/
def pseudoGetbiti (a : RegIx) (i : Word) : List Access := [hostWrite .arg i, hostCommand (.getbit a)]

/-- `LI Vd, <type>, imm64` (30 R103). -/
def pseudoLi (d : RegIx) (wc : WidthCode) (sg : Bool) (imm : BitVec 64) : List Access :=
  [hostWrite (.data 0) (imm.extractLsb' 0 32), hostWrite (.data 1) (imm.extractLsb' 32 32),
    hostCommand (.fromnat d wc sg .n64)]

/-- `NEG Vd, Va, Vt` for a Va of type (wc, sg) and a scratch register Vt ≠ Va (30 R103). -/
def pseudoNeg (d a t : RegIx) (wc : WidthCode) (sg : Bool) : List Access :=
  [hostCommand (.zero t wc sg), hostCommand (.sub d t a)]

/-- `CVT Vd, Va, <type>` from Va's type (wc, sg) to the type (wc', sg') (30 R103). -/
def pseudoCvt (d a : RegIx) (wc : WidthCode) (sg : Bool) (wc' : WidthCode) (sg' : Bool) : List Access :=
  (if widthOf wc' ≥ widthOf wc then hostCommand (.widen d a wc') else hostCommand (.narrow d a wc')) ::
    (if sg' ≠ sg then [hostCommand (.reint d d)] else [])

/-- A host program: its accesses issued one a core cycle, with the reset input low (log entries 1, 11). -/
def hostProgram (p : List Access) : List Cycle := p.map fun a => { resetLine := false, issue := some a }

/-- `V0` to `V15` (30 R102). -/
def asmReg (i : RegIx) : String := "V" ++ toString i.toNat

/-- `int<w>` or `uint<w>` (30 R102). -/
def asmType (wc : WidthCode) (sg : Bool) : String := (if sg then "int" else "uint") ++ toString (widthOf wc)

/-- A plain width, or a native width (30 R102). -/
def asmWidth (w : Nat) : String := toString w

/-- The assembler text of a command (30 R102). -/
def asmText : Instr → String
  | .zero rd wc sg => "ZERO " ++ asmReg rd ++ ", " ++ asmType wc sg
  | .ldw rd wc sg cnt => "LDW " ++ asmReg rd ++ ", " ++ asmType wc sg ++ ", " ++ toString cnt.toNat
  | .stw rs1 => "STW " ++ asmReg rs1
  | .getbit rs1 => "GETBIT " ++ asmReg rs1
  | .iszero rs1 => "ISZERO " ++ asmReg rs1
  | .signbit rs1 => "SIGNBIT " ++ asmReg rs1
  | .typeof rs1 => "TYPEOF " ++ asmReg rs1
  | .add rd rs1 rs2 => "ADD " ++ asmReg rd ++ ", " ++ asmReg rs1 ++ ", " ++ asmReg rs2
  | .sub rd rs1 rs2 => "SUB " ++ asmReg rd ++ ", " ++ asmReg rs1 ++ ", " ++ asmReg rs2
  | .mul rd rs1 rs2 => "MUL " ++ asmReg rd ++ ", " ++ asmReg rs1 ++ ", " ++ asmReg rs2
  | .divrem rd rs1 rs2 rd2 =>
    "DIVREM " ++ asmReg rd ++ ", " ++ asmReg rd2 ++ ", " ++ asmReg rs1 ++ ", " ++ asmReg rs2
  | .shl rd rs1 => "SHL " ++ asmReg rd ++ ", " ++ asmReg rs1
  | .shr rd rs1 => "SHR " ++ asmReg rd ++ ", " ++ asmReg rs1
  | .and rd rs1 rs2 => "AND " ++ asmReg rd ++ ", " ++ asmReg rs1 ++ ", " ++ asmReg rs2
  | .or rd rs1 rs2 => "OR " ++ asmReg rd ++ ", " ++ asmReg rs1 ++ ", " ++ asmReg rs2
  | .xor rd rs1 rs2 => "XOR " ++ asmReg rd ++ ", " ++ asmReg rs1 ++ ", " ++ asmReg rs2
  | .not rd rs1 => "NOT " ++ asmReg rd ++ ", " ++ asmReg rs1
  | .cmp rs1 rs2 => "CMP " ++ asmReg rs1 ++ ", " ++ asmReg rs2
  | .widen rd rs1 wc => "WIDEN " ++ asmReg rd ++ ", " ++ asmReg rs1 ++ ", " ++ asmWidth (widthOf wc)
  | .narrow rd rs1 wc => "NARROW " ++ asmReg rd ++ ", " ++ asmReg rs1 ++ ", " ++ asmWidth (widthOf wc)
  | .reint rd rs1 => "REINT " ++ asmReg rd ++ ", " ++ asmReg rs1
  | .fromnat rd wc sg n => "FROMNAT " ++ asmReg rd ++ ", " ++ asmType wc sg ++ ", " ++ asmWidth (nativeBits n)
  | .tonat rs1 n => "TONAT " ++ asmReg rs1 ++ ", " ++ asmWidth (nativeBits n)

end Sys2Proof.Machine
end

