-- ==== Sys2Proof/Safety.lean ====
section
/-! DEFINITION. The terms claims use: the canonical form, the machine's invariant, what a command may change, and the
run of a host program with every command atomic. -/

namespace Sys2Proof.Machine

/-- A register that holds a value holds it in canonical form: it equals `mk(WC, SG, val)` (10_state.md R33). -/
def Canonical (r : VReg) : Prop := r.valid = true → r = mk r.wc r.sg (val r)

/-- ERRCODE holds 0 or the code of an error kind other than ParseError: the reserved codes 6 and 10 to 15 are never
produced (60_exceptions.md R241). -/
def ProducedCode (c : BitVec 4) : Prop := c = 0 ∨ ∃ e, e ≠ ErrKind.parseError ∧ c = errCode e

/-- What every step keeps: every value in canonical form (R33), no reserved error code (R241), CMD the in-flight word
while a command is in flight (R40, R46), and LASTOP the opcode field of CMD while the core is idle (R43). -/
structure Inv (s : State) : Prop where
  canonical : ∀ i, Canonical (s.readV i)
  code : ProducedCode s.errcode
  inflightCmd : ∀ f, s.inflight = some f → f.word = s.cmd
  idleLastop : s.inflight = none → s.lastop = opField s.cmd

/-- Two registers hold values of one type (00_scope.md R22). -/
def SameType (a b : VReg) : Prop := a.wc = b.wc ∧ a.sg = b.sg

/-- What stands outside the block is the same: the accesses held, the inputs to come, the responses given. -/
def SameOutside (s t : State) : Prop :=
  t.pending = s.pending ∧ t.inputs = s.inputs ∧ t.responses = s.responses

/-- Between `s` and `t` no value register changed but those in `ds`, and of the host registers at most STATUS: DATA,
ARG, RES and CMD are the same. -/
def OnlyRegs (ds : List RegIx) (s t : State) : Prop :=
  (∀ j, j ∉ ds → t.readV j = s.readV j) ∧ t.data = s.data ∧ t.arg = s.arg ∧ t.res = s.res ∧ t.cmd = s.cmd ∧
    SameOutside s t

/-- Between `s` and `t` no value register changed, and of the host registers at most STATUS and RES. -/
def OnlyRes (s t : State) : Prop :=
  (∀ j, t.readV j = s.readV j) ∧ t.data = s.data ∧ t.arg = s.arg ∧ t.cmd = s.cmd ∧ SameOutside s t

/-- Between `s` and `t` no value register changed, no word of DATA but those in `ks`, and of the other host registers at
most STATUS. -/
def OnlyData (ks : List (Fin 8)) (s t : State) : Prop :=
  (∀ j, t.readV j = s.readV j) ∧ (∀ k : Fin 8, k ∉ ks → t.data[k.val] = s.data[k.val]) ∧ t.arg = s.arg ∧
    t.res = s.res ∧ t.cmd = s.cmd ∧ SameOutside s t

/-- STATUS after a command that succeeded (60_exceptions.md R246): ERRCODE and ERR 0, LASTOP its opcode, BUSY 0. -/
def Succeeded (op : Opcode) (t : State) : Prop :=
  t.errcode = 0 ∧ errBit t = false ∧ t.lastop = op ∧ t.inflight = none ∧ busy t = false

/-- A command that failed (60_exceptions.md R245): ERRCODE the kind's code, ERR 1, LASTOP its opcode, BUSY 0, and
nothing else changed. -/
def FailedWith (op : Opcode) (e : ErrKind) (s t : State) : Prop :=
  t.errcode = errCode e ∧ errBit t = true ∧ t.lastop = op ∧ t.inflight = none ∧ busy t = false ∧ OnlyRegs [] s t

/-- The mask and the match of a command's row of the opcode table (30_encoding.md R97). -/
def rowOf : Instr → Word × Word
  | .zero _ _ _ => (0xFC3FFC0F, 0x04000000)
  | .ldw _ _ _ _ => (0xFC3FFC00, 0x08000000)
  | .stw _ => (0xFFC3FFFF, 0x0C000000)
  | .getbit _ => (0xFFC3FFFF, 0x10000000)
  | .iszero _ => (0xFFC3FFFF, 0x14000000)
  | .signbit _ => (0xFFC3FFFF, 0x18000000)
  | .typeof _ => (0xFFC3FFFF, 0x1C000000)
  | .add _ _ _ => (0xFC003FFF, 0x20000000)
  | .sub _ _ _ => (0xFC003FFF, 0x24000000)
  | .mul _ _ _ => (0xFC003FFF, 0x28000000)
  | .divrem _ _ _ _ => (0xFC0003FF, 0x2C000000)
  | .shl _ _ => (0xFC03FFFF, 0x30000000)
  | .shr _ _ => (0xFC03FFFF, 0x34000000)
  | .and _ _ _ => (0xFC003FFF, 0x38000000)
  | .or _ _ _ => (0xFC003FFF, 0x3C000000)
  | .xor _ _ _ => (0xFC003FFF, 0x40000000)
  | .not _ _ => (0xFC03FFFF, 0x44000000)
  | .cmp _ _ => (0xFFC03FFF, 0x48000000)
  | .widen _ _ _ => (0xFC03FC1F, 0x60000000)
  | .narrow _ _ _ => (0xFC03FC1F, 0x64000000)
  | .reint _ _ => (0xFC03FFFF, 0x68000000)
  | .fromnat _ _ _ _ => (0xFC3FFC00, 0x70000000)
  | .tonat _ _ => (0xFFC3FFF0, 0x74000000)

/-- A word selects a row iff its bits under the mask are the match (30_encoding.md R97). -/
def SelectsRow (c : Word) (row : Word × Word) : Prop := c &&& row.1 = row.2

/-- The value registers a command names as destinations (30_encoding.md R97). -/
def destinations : Instr → List RegIx
  | .zero rd _ _ => [rd]
  | .ldw rd _ _ _ => [rd]
  | .stw _ => []
  | .getbit _ => []
  | .iszero _ => []
  | .signbit _ => []
  | .typeof _ => []
  | .add rd _ _ => [rd]
  | .sub rd _ _ => [rd]
  | .mul rd _ _ => [rd]
  | .divrem rd _ _ rd2 => [rd, rd2]
  | .shl rd _ => [rd]
  | .shr rd _ => [rd]
  | .and rd _ _ => [rd]
  | .or rd _ _ => [rd]
  | .xor rd _ _ => [rd]
  | .not rd _ => [rd]
  | .cmp _ _ => []
  | .widen rd _ _ => [rd]
  | .narrow rd _ _ => [rd]
  | .reint rd _ => [rd]
  | .fromnat rd _ _ _ => [rd]
  | .tonat _ _ => []

/-- The error kinds a well-formed command can raise (60_exceptions.md R242). -/
def kindsOf : Instr → List ErrKind
  | .zero _ _ _ => []
  | .ldw _ _ _ _ => [.invalidWidth]
  | .stw _ => [.uninitialized]
  | .getbit _ => [.uninitialized, .indexOutOfRange]
  | .iszero _ => [.uninitialized]
  | .signbit _ => [.uninitialized]
  | .typeof _ => []
  | .add _ _ _ => [.uninitialized, .typeMismatch]
  | .sub _ _ _ => [.uninitialized, .typeMismatch]
  | .mul _ _ _ => [.uninitialized, .typeMismatch]
  | .divrem _ _ _ _ => [.uninitialized, .typeMismatch, .divisionByZero]
  | .shl _ _ => [.uninitialized, .invalidShiftAmount]
  | .shr _ _ => [.uninitialized, .invalidShiftAmount]
  | .and _ _ _ => [.uninitialized, .typeMismatch]
  | .or _ _ _ => [.uninitialized, .typeMismatch]
  | .xor _ _ _ => [.uninitialized, .typeMismatch]
  | .not _ _ => [.uninitialized]
  | .cmp _ _ => [.uninitialized, .typeMismatch]
  | .widen _ _ _ => [.uninitialized, .invalidWidth]
  | .narrow _ _ _ => [.uninitialized, .invalidWidth]
  | .reint _ _ => [.uninitialized]
  | .fromnat _ _ _ _ => [.valueOutOfRange]
  | .tonat _ _ => [.uninitialized, .valueOutOfRange]

/-- Every piece of the block's state at the value of the reset table (10_state.md R52). -/
def AtResetValues (t : State) : Prop :=
  (∀ i, (t.readV i).valid = false ∧ (t.readV i).wc = 0 ∧ (t.readV i).sg = false ∧ ∀ k : Fin 8, (t.readV i).wd[k.val] = 0) ∧
    (∀ k, readReg t (.data k) = 0) ∧ readReg t .arg = 0 ∧ readReg t .res = 0 ∧ readReg t .cmd = 0 ∧
    readReg t .ctrl = 0 ∧ readReg t .status = 0 ∧ readReg t .id = 0x4D574155 ∧ t.inflight = none

/-- The next step of `s` commits the command word `c`: it is in flight with no cycle left to wait, the reset input is
low in this cycle, and the access the host issues in it, if any, is in the window. -/
def WillCommit (s : State) (c : Word) : Prop :=
  s.inflight = some { word := c, left := 0 } ∧ s.thisCycle.resetLine = false ∧ s.thisCycle.issue.all inWindow = true

/-- The state a commit starts from: this cycle's input taken, and a STATUS read that is the oldest pending access
answered (20_memory.md R67). -/
def State.atCommit (s : State) : State := s.takeInput.serveBusy

/-- The command in flight, if any, committed now. -/
def settle (s : State) : Host.Outcome State Fault Refusal :=
  match s.inflight with
  | none => .next s
  | some f => commitWord f.word s

/-- An access performed with the command it may issue executed at once (20_memory.md R71(3)). -/
def atomicAccess (s : State) (a : Access) : Host.Outcome State Fault Refusal :=
  settle { (perform s a).1 with responses := (perform s a).1.responses ++ [(perform s a).2] }

/-- A host program with every command atomic (20_memory.md R71(3)). -/
def atomicRun : List Access → State → Host.Outcome State Fault Refusal
  | [], s => .next s
  | a :: rest, s =>
    match atomicAccess s a with
    | .next t => atomicRun rest t
    | .fault f => .fault f
    | .refused r => .refused r

end Sys2Proof.Machine
end

