-- ==== Sys2Proof/Certificates/Slice0/Obligations.lean ====
section
/-! DEFINITION. The statements for the provers: what the numbered rules of spec/ say of the commands, the window, reset
and the run of a host program. -/

open Sys2Proof Sys2Proof.Machine

/-! ## Encoding -/

/-- Words written out from the spec's encodings decode to the commands they stand for (30_encoding.md R91, R96). -/
def Obligations.SpecWordsDecode : Prop :=
  decode 0x048000F0 = .ok (.zero 2 7 true) ∧ decode 0x08400163 = .ok (.ldw 1 11 false 3) ∧
  decode 0x0C040000 = .ok (.stw 1) ∧ decode 0x1C240000 = .ok (.typeof 9) ∧
  decode 0x20048000 = .ok (.add 0 1 2) ∧ decode 0x2D449800 = .ok (.divrem 5 1 2 6) ∧
  decode 0x30840000 = .ok (.shl 2 1) ∧ decode 0x48048000 = .ok (.cmp 1 2) ∧
  decode 0x60840020 = .ok (.widen 2 1 1) ∧ decode 0x704000F2 = .ok (.fromnat 1 7 true .n64) ∧
  decode 0x74040002 = .ok (.tonat 1 .n64) ∧ decode 0x00000000 = .error (.unassignedOpcode 0)

/-- Decode and encode agree on every well-formed command. -/
def Obligations.DecodeOfEncodeIsIdentity : Prop :=
  ∀ i : Instr, i.wellFormed = true → decode (encode i) = .ok i

/-- A word that decodes is the encoding of what it decodes to, which is well-formed: no bit of the word is dropped. -/
def Obligations.EncodeOfDecodeIsIdentity : Prop :=
  ∀ (c : Word) (i : Instr), decode c = .ok i → encode i = c ∧ i.wellFormed = true

/-- The legal words are those that select a row of R97 and pass R100; the selected row is the decoded command's, and no
word selects two rows. -/
def Obligations.LegalWordsAreTheTableRows : Prop :=
  ∀ c : Word,
    ((∃ i, decode c = .ok i) ↔
      (∃ i, SelectsRow c (rowOf i)) ∧ ¬(opField c = 0x0B ∧ rdField c = rd2Field c) ∧
        ¬((opField c = 0x1C ∨ opField c = 0x1D) ∧ cntField c ≠ 1 ∧ cntField c ≠ 2)) ∧
    (∀ i, decode c = .ok i → SelectsRow c (rowOf i)) ∧
    (∀ i j, SelectsRow c (rowOf i) → SelectsRow c (rowOf j) → rowOf i = rowOf j)

/-- A word whose op names a command but whose reserved-zero fields are not all 0 completes with IllegalCommand (R98). -/
def Obligations.ReservedFieldIsIllegal : Prop :=
  ∀ (s : State) (c : Word) (i : Instr), WillCommit s c → opField c = opcodeOf i → ¬SelectsRow c (rowOf i) →
    ∃ t, step s = .next t ∧ FailedWith (opField c) .illegalCommand s.atCommit t

/-- A word whose op names no command completes with IllegalCommand, and the unassigned values are those listed (R99). -/
def Obligations.UnassignedOpcodeIsIllegal : Prop :=
  (∀ (s : State) (c : Word), WillCommit s c → (∀ i, opcodeOf i ≠ opField c) →
    ∃ t, step s = .next t ∧ FailedWith (opField c) .illegalCommand s.atCommit t) ∧
  (∀ op : Opcode, (∀ i, opcodeOf i ≠ op) ↔
    op.toNat = 0x00 ∨ (0x13 ≤ op.toNat ∧ op.toNat ≤ 0x17) ∨ op.toNat = 0x1B ∨ 0x1E ≤ op.toNat)

/-- DIVREM with rd = rd2, and FROMNAT or TONAT with cnt outside 1, 2, complete with IllegalCommand; LDW with any cnt is
legal, and a cnt that is not the word count fails with InvalidWidth (R100). -/
def Obligations.PerCommandLegality : Prop :=
  (∀ (s : State) (c : Word), WillCommit s c →
    (opField c = 0x0B ∧ rdField c = rd2Field c) ∨
      ((opField c = 0x1C ∨ opField c = 0x1D) ∧ cntField c ≠ 1 ∧ cntField c ≠ 2) →
    ∃ t, step s = .next t ∧ FailedWith (opField c) .illegalCommand s.atCommit t) ∧
  (∀ (rd : RegIx) (wc : WidthCode) (sg : Bool) (cnt : BitVec 4),
    decode (packFields 0x02 rd 0 0 0 wc sg cnt) = .ok (.ldw rd wc sg cnt)) ∧
  (∀ (s : State) (rd : RegIx) (wc : WidthCode) (sg : Bool) (cnt : BitVec 4), cnt.toNat ≠ (widthOf wc + 31) / 32 →
    ∃ t, exec (.ldw rd wc sg cnt) s = .next t ∧ FailedWith 0x02 .invalidWidth s t)

/-! ## The step -/

/-- In the cycle that commits a word that decodes to `i`, the step is `exec i` on the state with this cycle's input
taken; what the step adds around it is the input taken and, when the oldest pending access is a STATUS read, its answer
(from the state before the commit). With no access pending or issued, none is pending or answered. What the window does in the commit step is the model's choice (log entries 3, 17). -/
def Obligations.StepRunsDecodedCommand : Prop :=
  ∀ (s : State) (c : Word) (i : Instr), WillCommit s c → decode c = .ok i →
    step s = exec i s.atCommit ∧ (∀ j, s.atCommit.readV j = s.readV j) ∧ s.atCommit.data = s.data ∧
    s.atCommit.arg = s.arg ∧ s.atCommit.res = s.res ∧ s.atCommit.cmd = s.cmd ∧ s.atCommit.errcode = s.errcode ∧
    s.atCommit.lastop = s.lastop ∧ s.atCommit.inflight = s.inflight ∧ s.atCommit.inputs = s.inputs.tail ∧
    (s.pending ++ s.thisCycle.issue.toList = [] → s.atCommit.pending = [] ∧ s.atCommit.responses = s.responses) ∧
    (∀ a rest, s.pending ++ s.thisCycle.issue.toList = a :: rest →
      if isStatusRead a then
        s.atCommit.pending = rest ∧ s.atCommit.responses = s.responses ++ [.data (statusWord s)]
      else s.atCommit.pending = a :: rest ∧ s.atCommit.responses = s.responses)

/-- Every command answers a next state, in which the core is idle, LASTOP is its opcode, and only its destinations among
the value registers may have changed; CMD, ARG and what stands outside the block are the same (R26, R46, R280). -/
def Obligations.EveryCommandCommits : Prop :=
  ∀ (i : Instr) (s : State), ∃ t, exec i s = .next t ∧ busy t = false ∧ t.inflight = none ∧ t.lastop = opcodeOf i ∧
    t.cmd = s.cmd ∧ t.arg = s.arg ∧ SameOutside s t ∧ ∀ j, j ∉ destinations i → t.readV j = s.readV j

/-- A well-formed command either succeeds or fails with one of its own error kinds, and then nothing but STATUS has
changed (R240, R242, R245, R246). -/
def Obligations.CommandSucceedsOrFailsPrecisely : Prop :=
  ∀ (i : Instr) (s t : State), i.wellFormed = true → exec i s = .next t →
    Succeeded (opcodeOf i) t ∨ ∃ e ∈ kindsOf i, FailedWith (opcodeOf i) e s t

/-! ## Word-vector commands -/

/-- ZERO (R120). -/
def Obligations.ZeroFollowsRule : Prop :=
  ∀ (s : State) (rd : RegIx) (wc : WidthCode) (sg : Bool),
    encode (.zero rd wc sg) &&& 0xFC3FFC0F = 0x04000000 ∧
    ∃ t, exec (.zero rd wc sg) s = .next t ∧ Succeeded 0x01 t ∧ OnlyRegs [rd] s t ∧ t.readV rd = mk wc sg 0 ∧
      (t.readV rd).valid = true ∧ val (t.readV rd) = 0 ∧ ∀ k : Fin 8, (t.readV rd).wd[k.val] = 0

/-- LDW (R121, R122): InvalidWidth unless cnt = ceil(w/32); else the low `w` bits of the staged words, canonicalized. -/
def Obligations.LdwFollowsRule : Prop :=
  ∀ (s : State) (rd : RegIx) (wc : WidthCode) (sg : Bool) (cnt : BitVec 4),
    encode (.ldw rd wc sg cnt) &&& 0xFC3FFC00 = 0x08000000 ∧
    (cnt.toNat ≠ (widthOf wc + 31) / 32 →
      ∃ t, exec (.ldw rd wc sg cnt) s = .next t ∧ FailedWith 0x02 .invalidWidth s t) ∧
    (cnt.toNat = (widthOf wc + 31) / 32 →
      ∃ t, exec (.ldw rd wc sg cnt) s = .next t ∧ Succeeded 0x02 t ∧ OnlyRegs [rd] s t ∧
        t.readV rd = mk wc sg (wordsNat (s.data.toList.take cnt.toNat)) ∧
        pat (t.readV rd) = wordsNat (s.data.toList.take cnt.toNat) % 2 ^ widthOf wc)

/-- STW (R124): all eight stored words to DATA; the words above a canonical value's word count read 0. -/
def Obligations.StwFollowsRule : Prop :=
  ∀ (s : State) (rs1 : RegIx),
    encode (.stw rs1) &&& 0xFFC3FFFF = 0x0C000000 ∧
    ((s.readV rs1).valid = false → ∃ t, exec (.stw rs1) s = .next t ∧ FailedWith 0x03 .uninitialized s t) ∧
    ((s.readV rs1).valid = true →
      ∃ t, exec (.stw rs1) s = .next t ∧ Succeeded 0x03 t ∧ OnlyData [0, 1, 2, 3, 4, 5, 6, 7] s t ∧
        (∀ k : Fin 8, t.data[k.val] = (s.readV rs1).wd[k.val]) ∧
        (Canonical (s.readV rs1) → ∀ k : Fin 8, (widthOf (s.readV rs1).wc + 31) / 32 ≤ k.val → t.data[k.val] = 0))

/-- GETBIT (R126, R127): the bit of the value at the index in ARG, or IndexOutOfRange. -/
def Obligations.GetbitFollowsRule : Prop :=
  ∀ (s : State) (rs1 : RegIx),
    encode (.getbit rs1) &&& 0xFFC3FFFF = 0x10000000 ∧
    ((s.readV rs1).valid = false → ∃ t, exec (.getbit rs1) s = .next t ∧ FailedWith 0x04 .uninitialized s t) ∧
    ((s.readV rs1).valid = true → (s.arg.toInt < 0 ∨ s.arg.toInt ≥ widthOf (s.readV rs1).wc) →
      ∃ t, exec (.getbit rs1) s = .next t ∧ FailedWith 0x04 .indexOutOfRange s t) ∧
    ((s.readV rs1).valid = true → 0 ≤ s.arg.toInt → s.arg.toInt < widthOf (s.readV rs1).wc →
      ∃ t, exec (.getbit rs1) s = .next t ∧ Succeeded 0x04 t ∧ OnlyRes s t ∧
        t.res = BitVec.ofNat 32 (pat (s.readV rs1) / 2 ^ s.arg.toNat % 2))

/-- ISZERO (R128, R129): 1 iff the value bits are all 0; of a canonical value, iff every stored word is 0. -/
def Obligations.IszeroFollowsRule : Prop :=
  ∀ (s : State) (rs1 : RegIx),
    encode (.iszero rs1) &&& 0xFFC3FFFF = 0x14000000 ∧
    ((s.readV rs1).valid = false → ∃ t, exec (.iszero rs1) s = .next t ∧ FailedWith 0x05 .uninitialized s t) ∧
    ((s.readV rs1).valid = true →
      ∃ t, exec (.iszero rs1) s = .next t ∧ Succeeded 0x05 t ∧ OnlyRes s t ∧
        t.res = (if val (s.readV rs1) = 0 then 1 else 0) ∧
        (Canonical (s.readV rs1) → (t.res = 1 ↔ ∀ k : Fin 8, (s.readV rs1).wd[k.val] = 0)))

/-- SIGNBIT (R130, R131): the top bit of a signed value, which says whether it is negative; 0 for an unsigned type. -/
def Obligations.SignbitFollowsRule : Prop :=
  ∀ (s : State) (rs1 : RegIx),
    encode (.signbit rs1) &&& 0xFFC3FFFF = 0x18000000 ∧
    ((s.readV rs1).valid = false → ∃ t, exec (.signbit rs1) s = .next t ∧ FailedWith 0x06 .uninitialized s t) ∧
    ((s.readV rs1).valid = true →
      ∃ t, exec (.signbit rs1) s = .next t ∧ Succeeded 0x06 t ∧ OnlyRes s t ∧
        ((s.readV rs1).sg = false → t.res = 0) ∧
        ((s.readV rs1).sg = true →
          t.res = BitVec.ofNat 32 (pat (s.readV rs1) / 2 ^ (widthOf (s.readV rs1).wc - 1)) ∧
          t.res = (if val (s.readV rs1) < 0 then 1 else 0)))

/-- TYPEOF (R132): the fields of RES, and 0 for an empty register; never an error. -/
def Obligations.TypeofFollowsRule : Prop :=
  ∀ (s : State) (rs1 : RegIx),
    encode (.typeof rs1) &&& 0xFFC3FFFF = 0x1C000000 ∧
    ∃ t, exec (.typeof rs1) s = .next t ∧ Succeeded 0x07 t ∧ OnlyRes s t ∧
      ((s.readV rs1).valid = false → t.res = 0) ∧
      ((s.readV rs1).valid = true →
        t.res.getLsbD 31 = true ∧ t.res.extractLsb' 20 11 = 0 ∧
        (t.res.extractLsb' 16 4).toNat = (widthOf (s.readV rs1).wc + 31) / 32 ∧ t.res.extractLsb' 10 6 = 0 ∧
        t.res.getLsbD 9 = (s.readV rs1).sg ∧ (t.res.extractLsb' 0 9).toNat = widthOf (s.readV rs1).wc)

/-! ## Arithmetic -/

/-- ADD (R150): the sum reduced modulo 2^w and canonicalized; its bits do not depend on the signedness. -/
def Obligations.AddFollowsRule : Prop :=
  ∀ (s : State) (rd rs1 rs2 : RegIx),
    encode (.add rd rs1 rs2) &&& 0xFC003FFF = 0x20000000 ∧
    ((s.readV rs1).valid = false ∨ (s.readV rs2).valid = false →
      ∃ t, exec (.add rd rs1 rs2) s = .next t ∧ FailedWith 0x08 .uninitialized s t) ∧
    ((s.readV rs1).valid = true → (s.readV rs2).valid = true → ¬SameType (s.readV rs1) (s.readV rs2) →
      ∃ t, exec (.add rd rs1 rs2) s = .next t ∧ FailedWith 0x08 .typeMismatch s t) ∧
    ((s.readV rs1).valid = true → (s.readV rs2).valid = true → SameType (s.readV rs1) (s.readV rs2) →
      ∃ t, exec (.add rd rs1 rs2) s = .next t ∧ Succeeded 0x08 t ∧ OnlyRegs [rd] s t ∧
        t.readV rd = mk (s.readV rs1).wc (s.readV rs1).sg (val (s.readV rs1) + val (s.readV rs2)) ∧
        pat (t.readV rd) = (pat (s.readV rs1) + pat (s.readV rs2)) % 2 ^ widthOf (s.readV rs1).wc)

/-- SUB (R153): the difference reduced modulo 2^w and canonicalized. -/
def Obligations.SubFollowsRule : Prop :=
  ∀ (s : State) (rd rs1 rs2 : RegIx),
    encode (.sub rd rs1 rs2) &&& 0xFC003FFF = 0x24000000 ∧
    ((s.readV rs1).valid = false ∨ (s.readV rs2).valid = false →
      ∃ t, exec (.sub rd rs1 rs2) s = .next t ∧ FailedWith 0x09 .uninitialized s t) ∧
    ((s.readV rs1).valid = true → (s.readV rs2).valid = true → ¬SameType (s.readV rs1) (s.readV rs2) →
      ∃ t, exec (.sub rd rs1 rs2) s = .next t ∧ FailedWith 0x09 .typeMismatch s t) ∧
    ((s.readV rs1).valid = true → (s.readV rs2).valid = true → SameType (s.readV rs1) (s.readV rs2) →
      ∃ t, exec (.sub rd rs1 rs2) s = .next t ∧ Succeeded 0x09 t ∧ OnlyRegs [rd] s t ∧
        t.readV rd = mk (s.readV rs1).wc (s.readV rs1).sg (val (s.readV rs1) - val (s.readV rs2)) ∧
        pat (t.readV rd) =
          (pat (s.readV rs1) + 2 ^ widthOf (s.readV rs1).wc - pat (s.readV rs2)) % 2 ^ widthOf (s.readV rs1).wc)

/-- MUL (R156, R158): the low w bits of the exact product; they do not depend on the signedness. -/
def Obligations.MulFollowsRule : Prop :=
  ∀ (s : State) (rd rs1 rs2 : RegIx),
    encode (.mul rd rs1 rs2) &&& 0xFC003FFF = 0x28000000 ∧
    ((s.readV rs1).valid = false ∨ (s.readV rs2).valid = false →
      ∃ t, exec (.mul rd rs1 rs2) s = .next t ∧ FailedWith 0x0A .uninitialized s t) ∧
    ((s.readV rs1).valid = true → (s.readV rs2).valid = true → ¬SameType (s.readV rs1) (s.readV rs2) →
      ∃ t, exec (.mul rd rs1 rs2) s = .next t ∧ FailedWith 0x0A .typeMismatch s t) ∧
    ((s.readV rs1).valid = true → (s.readV rs2).valid = true → SameType (s.readV rs1) (s.readV rs2) →
      ∃ t, exec (.mul rd rs1 rs2) s = .next t ∧ Succeeded 0x0A t ∧ OnlyRegs [rd] s t ∧
        t.readV rd = mk (s.readV rs1).wc (s.readV rs1).sg (val (s.readV rs1) * val (s.readV rs2)) ∧
        pat (t.readV rd) = pat (s.readV rs1) * pat (s.readV rs2) % 2 ^ widthOf (s.readV rs1).wc)

/-- DIVREM (R160): quotient to V[rd] and remainder to V[rd2], in one commit; the errors in their order. -/
def Obligations.DivremFollowsRule : Prop :=
  ∀ (s : State) (rd rs1 rs2 rd2 : RegIx),
    encode (.divrem rd rs1 rs2 rd2) &&& 0xFC0003FF = 0x2C000000 ∧
    (rd = rd2 → ∃ t, exec (.divrem rd rs1 rs2 rd2) s = .next t ∧ FailedWith 0x0B .illegalCommand s t) ∧
    (rd ≠ rd2 → (s.readV rs1).valid = false ∨ (s.readV rs2).valid = false →
      ∃ t, exec (.divrem rd rs1 rs2 rd2) s = .next t ∧ FailedWith 0x0B .uninitialized s t) ∧
    (rd ≠ rd2 → (s.readV rs1).valid = true → (s.readV rs2).valid = true →
      ¬SameType (s.readV rs1) (s.readV rs2) →
      ∃ t, exec (.divrem rd rs1 rs2 rd2) s = .next t ∧ FailedWith 0x0B .typeMismatch s t) ∧
    (rd ≠ rd2 → (s.readV rs1).valid = true → (s.readV rs2).valid = true → SameType (s.readV rs1) (s.readV rs2) →
      val (s.readV rs2) = 0 →
      ∃ t, exec (.divrem rd rs1 rs2 rd2) s = .next t ∧ FailedWith 0x0B .divisionByZero s t) ∧
    (rd ≠ rd2 → (s.readV rs1).valid = true → (s.readV rs2).valid = true → SameType (s.readV rs1) (s.readV rs2) →
      val (s.readV rs2) ≠ 0 →
      ∃ t, exec (.divrem rd rs1 rs2 rd2) s = .next t ∧ Succeeded 0x0B t ∧ OnlyRegs [rd, rd2] s t ∧
        ((s.readV rs1).sg = false →
          t.readV rd = mk (s.readV rs1).wc false ((val (s.readV rs1)).fdiv (val (s.readV rs2))) ∧
          t.readV rd2 = mk (s.readV rs1).wc false
            (val (s.readV rs1) - (val (s.readV rs1)).fdiv (val (s.readV rs2)) * val (s.readV rs2))) ∧
        ((s.readV rs1).sg = true →
          t.readV rd = mk (s.readV rs1).wc true ((val (s.readV rs1)).tdiv (val (s.readV rs2))) ∧
          t.readV rd2 = mk (s.readV rs1).wc true
            (val (s.readV rs1) - (val (s.readV rs1)).tdiv (val (s.readV rs2)) * val (s.readV rs2))))

/-- The remainder of DIVREM is below the divisor in magnitude and is 0 or has the dividend's sign; outside the one
overflow case quotient and remainder give the dividend back over the integers (R161, R162, R164). -/
def Obligations.DivremQuotientAndRemainder : Prop :=
  ∀ (s : State) (rd rs1 rs2 rd2 : RegIx), rd ≠ rd2 → (s.readV rs1).valid = true → (s.readV rs2).valid = true →
    SameType (s.readV rs1) (s.readV rs2) → val (s.readV rs2) ≠ 0 →
    ∃ t, exec (.divrem rd rs1 rs2 rd2) s = .next t ∧
      (val (t.readV rd2)).natAbs < (val (s.readV rs2)).natAbs ∧
      (val (t.readV rd2) = 0 ∨ (val (t.readV rd2) < 0 ↔ val (s.readV rs1) < 0)) ∧
      (¬((s.readV rs1).sg = true ∧ val (s.readV rs1) = -2 ^ (widthOf (s.readV rs1).wc - 1) ∧ val (s.readV rs2) = -1) →
        val (s.readV rs1) = val (t.readV rd) * val (s.readV rs2) + val (t.readV rd2) ∧
        (val (t.readV rd) = 0 ∨
          (val (t.readV rd) < 0 ↔ ((val (s.readV rs1) < 0 ∧ ¬val (s.readV rs2) < 0) ∨
            (¬val (s.readV rs1) < 0 ∧ val (s.readV rs2) < 0)))))

/-- The signed minimum divided by -1 wraps to the minimum with remainder 0, and is no error (R163). -/
def Obligations.SignedDivisionOverflowWraps : Prop :=
  ∀ (s : State) (rd rs1 rs2 rd2 : RegIx), rd ≠ rd2 → (s.readV rs1).valid = true → (s.readV rs2).valid = true →
    SameType (s.readV rs1) (s.readV rs2) → (s.readV rs1).sg = true →
    val (s.readV rs1) = -2 ^ (widthOf (s.readV rs1).wc - 1) → val (s.readV rs2) = -1 →
    ∃ t, exec (.divrem rd rs1 rs2 rd2) s = .next t ∧ Succeeded 0x0B t ∧ OnlyRegs [rd, rd2] s t ∧
      val (t.readV rd) = -2 ^ (widthOf (s.readV rs1).wc - 1) ∧ val (t.readV rd2) = 0

/-! ## Shifts, bitwise operations, compare -/

/-- SHL (R180, R186): zero from the right, 0 for an amount of w or more, InvalidShiftAmount for a negative one. -/
def Obligations.ShlFollowsRule : Prop :=
  ∀ (s : State) (rd rs1 : RegIx),
    encode (.shl rd rs1) &&& 0xFC03FFFF = 0x30000000 ∧
    ((s.readV rs1).valid = false → ∃ t, exec (.shl rd rs1) s = .next t ∧ FailedWith 0x0C .uninitialized s t) ∧
    ((s.readV rs1).valid = true → s.arg.toInt < 0 →
      ∃ t, exec (.shl rd rs1) s = .next t ∧ FailedWith 0x0C .invalidShiftAmount s t) ∧
    ((s.readV rs1).valid = true → 0 ≤ s.arg.toInt →
      ∃ t, exec (.shl rd rs1) s = .next t ∧ Succeeded 0x0C t ∧ OnlyRegs [rd] s t ∧
        t.readV rd = mk (s.readV rs1).wc (s.readV rs1).sg
          (if s.arg.toInt ≥ widthOf (s.readV rs1).wc then 0 else pat (s.readV rs1) * 2 ^ s.arg.toNat) ∧
        pat (t.readV rd) = pat (s.readV rs1) * 2 ^ s.arg.toNat % 2 ^ widthOf (s.readV rs1).wc)

/-- SHR (R183, R186): logical for unsigned types, rounding down the value for signed ones; an amount of w or more gives
0 or the sign fill; InvalidShiftAmount for a negative amount. -/
def Obligations.ShrFollowsRule : Prop :=
  ∀ (s : State) (rd rs1 : RegIx),
    encode (.shr rd rs1) &&& 0xFC03FFFF = 0x34000000 ∧
    ((s.readV rs1).valid = false → ∃ t, exec (.shr rd rs1) s = .next t ∧ FailedWith 0x0D .uninitialized s t) ∧
    ((s.readV rs1).valid = true → s.arg.toInt < 0 →
      ∃ t, exec (.shr rd rs1) s = .next t ∧ FailedWith 0x0D .invalidShiftAmount s t) ∧
    ((s.readV rs1).valid = true → 0 ≤ s.arg.toInt →
      ∃ t, exec (.shr rd rs1) s = .next t ∧ Succeeded 0x0D t ∧ OnlyRegs [rd] s t ∧
        SameType (t.readV rd) (s.readV rs1) ∧ (t.readV rd).valid = true ∧ Canonical (t.readV rd) ∧
        val (t.readV rd) = (val (s.readV rs1)).fdiv (2 ^ s.arg.toNat) ∧
        (widthOf (s.readV rs1).wc ≤ s.arg.toNat → val (t.readV rd) =
          (if (s.readV rs1).sg = true ∧ val (s.readV rs1) < 0 then -1 else 0)))

/-- AND, OR and XOR (R187 to R189): bit by bit over the value bits, canonicalized. -/
def Obligations.BitwiseFollowsRules : Prop :=
  ∀ (s : State) (rd rs1 rs2 : RegIx) (i : Instr) (f : Bool → Bool → Bool) (row : Word),
    (i = .and rd rs1 rs2 ∧ f = (fun x y => x && y) ∧ row = 0x38000000) ∨
      (i = .or rd rs1 rs2 ∧ f = (fun x y => x || y) ∧ row = 0x3C000000) ∨
      (i = .xor rd rs1 rs2 ∧ f = (fun x y => x ^^ y) ∧ row = 0x40000000) →
    encode i &&& 0xFC003FFF = row ∧
    ((s.readV rs1).valid = false ∨ (s.readV rs2).valid = false →
      ∃ t, exec i s = .next t ∧ FailedWith (opcodeOf i) .uninitialized s t) ∧
    ((s.readV rs1).valid = true → (s.readV rs2).valid = true → ¬SameType (s.readV rs1) (s.readV rs2) →
      ∃ t, exec i s = .next t ∧ FailedWith (opcodeOf i) .typeMismatch s t) ∧
    ((s.readV rs1).valid = true → (s.readV rs2).valid = true → SameType (s.readV rs1) (s.readV rs2) →
      ∃ t, exec i s = .next t ∧ Succeeded (opcodeOf i) t ∧ OnlyRegs [rd] s t ∧
        SameType (t.readV rd) (s.readV rs1) ∧ (t.readV rd).valid = true ∧ Canonical (t.readV rd) ∧
        ∀ k, k < widthOf (s.readV rs1).wc →
          (pat (t.readV rd)).testBit k = f ((pat (s.readV rs1)).testBit k) ((pat (s.readV rs2)).testBit k))

/-- NOT (R190): every value bit inverted, the padding rebuilt. -/
def Obligations.NotFollowsRule : Prop :=
  ∀ (s : State) (rd rs1 : RegIx),
    encode (.not rd rs1) &&& 0xFC03FFFF = 0x44000000 ∧
    ((s.readV rs1).valid = false → ∃ t, exec (.not rd rs1) s = .next t ∧ FailedWith 0x11 .uninitialized s t) ∧
    ((s.readV rs1).valid = true →
      ∃ t, exec (.not rd rs1) s = .next t ∧ Succeeded 0x11 t ∧ OnlyRegs [rd] s t ∧
        t.readV rd = mk (s.readV rs1).wc (s.readV rs1).sg (2 ^ widthOf (s.readV rs1).wc - 1 - pat (s.readV rs1)) ∧
        (∀ k, k < widthOf (s.readV rs1).wc →
          (pat (t.readV rd)).testBit k = !(pat (s.readV rs1)).testBit k) ∧
        ((s.readV rs1).sg = true → val (t.readV rd) = -val (s.readV rs1) - 1))

/-- CMP (R192): 0, 1 or 2 by the order of the values. -/
def Obligations.CmpFollowsRule : Prop :=
  ∀ (s : State) (rs1 rs2 : RegIx),
    encode (.cmp rs1 rs2) &&& 0xFFC03FFF = 0x48000000 ∧
    ((s.readV rs1).valid = false ∨ (s.readV rs2).valid = false →
      ∃ t, exec (.cmp rs1 rs2) s = .next t ∧ FailedWith 0x12 .uninitialized s t) ∧
    ((s.readV rs1).valid = true → (s.readV rs2).valid = true → ¬SameType (s.readV rs1) (s.readV rs2) →
      ∃ t, exec (.cmp rs1 rs2) s = .next t ∧ FailedWith 0x12 .typeMismatch s t) ∧
    ((s.readV rs1).valid = true → (s.readV rs2).valid = true → SameType (s.readV rs1) (s.readV rs2) →
      ∃ t, exec (.cmp rs1 rs2) s = .next t ∧ Succeeded 0x12 t ∧ OnlyRes s t ∧
        (t.res = 0 ↔ val (s.readV rs1) = val (s.readV rs2)) ∧ (t.res = 1 ↔ val (s.readV rs1) < val (s.readV rs2)) ∧
        (t.res = 2 ↔ val (s.readV rs1) > val (s.readV rs2)))

/-! ## Conversion -/

/-- WIDEN (R210, R212): the value kept at the target width; InvalidWidth for a smaller one. -/
def Obligations.WidenFollowsRule : Prop :=
  ∀ (s : State) (rd rs1 : RegIx) (wc : WidthCode),
    encode (.widen rd rs1 wc) &&& 0xFC03FC1F = 0x60000000 ∧
    ((s.readV rs1).valid = false → ∃ t, exec (.widen rd rs1 wc) s = .next t ∧ FailedWith 0x18 .uninitialized s t) ∧
    ((s.readV rs1).valid = true → widthOf wc < widthOf (s.readV rs1).wc →
      ∃ t, exec (.widen rd rs1 wc) s = .next t ∧ FailedWith 0x18 .invalidWidth s t) ∧
    ((s.readV rs1).valid = true → widthOf (s.readV rs1).wc ≤ widthOf wc →
      ∃ t, exec (.widen rd rs1 wc) s = .next t ∧ Succeeded 0x18 t ∧ OnlyRegs [rd] s t ∧
        t.readV rd = mk wc (s.readV rs1).sg (val (s.readV rs1)) ∧ val (t.readV rd) = val (s.readV rs1))

/-- NARROW (R213): the low bits at the target width; InvalidWidth for a larger one. -/
def Obligations.NarrowFollowsRule : Prop :=
  ∀ (s : State) (rd rs1 : RegIx) (wc : WidthCode),
    encode (.narrow rd rs1 wc) &&& 0xFC03FC1F = 0x64000000 ∧
    ((s.readV rs1).valid = false → ∃ t, exec (.narrow rd rs1 wc) s = .next t ∧ FailedWith 0x19 .uninitialized s t) ∧
    ((s.readV rs1).valid = true → widthOf (s.readV rs1).wc < widthOf wc →
      ∃ t, exec (.narrow rd rs1 wc) s = .next t ∧ FailedWith 0x19 .invalidWidth s t) ∧
    ((s.readV rs1).valid = true → widthOf wc ≤ widthOf (s.readV rs1).wc →
      ∃ t, exec (.narrow rd rs1 wc) s = .next t ∧ Succeeded 0x19 t ∧ OnlyRegs [rd] s t ∧
        t.readV rd = mk wc (s.readV rs1).sg (pat (s.readV rs1)) ∧
        pat (t.readV rd) = pat (s.readV rs1) % 2 ^ widthOf wc)

/-- REINT (R216, R217): the same width and value bits, the other signedness, the padding rebuilt. -/
def Obligations.ReintFollowsRule : Prop :=
  ∀ (s : State) (rd rs1 : RegIx),
    encode (.reint rd rs1) &&& 0xFC03FFFF = 0x68000000 ∧
    ((s.readV rs1).valid = false → ∃ t, exec (.reint rd rs1) s = .next t ∧ FailedWith 0x1A .uninitialized s t) ∧
    ((s.readV rs1).valid = true →
      ∃ t, exec (.reint rd rs1) s = .next t ∧ Succeeded 0x1A t ∧ OnlyRegs [rd] s t ∧
        t.readV rd = mk (s.readV rs1).wc (!(s.readV rs1).sg) (pat (s.readV rs1)) ∧
        pat (t.readV rd) = pat (s.readV rs1))

/-- REINT twice gives a canonical value back; a value whose top bit is 0 keeps its value, and one whose top bit is 1
changes by 2^w (R218). -/
def Obligations.ReintCornerCases : Prop :=
  ∀ (s : State) (rd rd' rs1 : RegIx), (s.readV rs1).valid = true →
    ∃ t u, exec (.reint rd rs1) s = .next t ∧ exec (.reint rd' rd) t = .next u ∧
      (Canonical (s.readV rs1) → u.readV rd' = s.readV rs1) ∧
      val (t.readV rd) = (if (pat (s.readV rs1)).testBit (widthOf (s.readV rs1).wc - 1) then
        (if (s.readV rs1).sg then val (s.readV rs1) + 2 ^ widthOf (s.readV rs1).wc
          else val (s.readV rs1) - 2 ^ widthOf (s.readV rs1).wc)
        else val (s.readV rs1))

/-- FROMNAT (R219, R220): the native integer in DATA, with the target's signedness; ValueOutOfRange if it does not fit. -/
def Obligations.FromnatFollowsRule : Prop :=
  ∀ (s : State) (rd : RegIx) (wc : WidthCode) (sg : Bool) (n : NativeWidth) (x : Int),
    x = (match n with
      | .n32 => if sg then s.data[0].toInt else (s.data[0].toNat : Int)
      | .n64 => if sg then (s.data[1] ++ s.data[0]).toInt else ((s.data[1] ++ s.data[0]).toNat : Int)) →
    encode (.fromnat rd wc sg n) &&& 0xFC3FFC00 = 0x70000000 ∧
    (¬(if sg then -2 ^ (widthOf wc - 1) ≤ x ∧ x ≤ 2 ^ (widthOf wc - 1) - 1 else 0 ≤ x ∧ x ≤ 2 ^ widthOf wc - 1) →
      ∃ t, exec (.fromnat rd wc sg n) s = .next t ∧ FailedWith 0x1C .valueOutOfRange s t) ∧
    ((if sg then -2 ^ (widthOf wc - 1) ≤ x ∧ x ≤ 2 ^ (widthOf wc - 1) - 1 else 0 ≤ x ∧ x ≤ 2 ^ widthOf wc - 1) →
      ∃ t, exec (.fromnat rd wc sg n) s = .next t ∧ Succeeded 0x1C t ∧ OnlyRegs [rd] s t ∧
        t.readV rd = mk wc sg x ∧ val (t.readV rd) = x)

/-- TONAT (R222): the native pattern of the value to DATA[0], and for 64 bits DATA[1]; ValueOutOfRange if it does not
fit the native type of the value's signedness. -/
def Obligations.TonatFollowsRule : Prop :=
  ∀ (s : State) (rs1 : RegIx) (n : NativeWidth) (N : Nat) (x : Int),
    N = (match n with | .n32 => 32 | .n64 => 64) → x = val (s.readV rs1) →
    encode (.tonat rs1 n) &&& 0xFFC3FFF0 = 0x74000000 ∧
    ((s.readV rs1).valid = false → ∃ t, exec (.tonat rs1 n) s = .next t ∧ FailedWith 0x1D .uninitialized s t) ∧
    ((s.readV rs1).valid = true →
      ¬(if (s.readV rs1).sg then -2 ^ (N - 1) ≤ x ∧ x ≤ 2 ^ (N - 1) - 1 else 0 ≤ x ∧ x ≤ 2 ^ N - 1) →
      ∃ t, exec (.tonat rs1 n) s = .next t ∧ FailedWith 0x1D .valueOutOfRange s t) ∧
    ((s.readV rs1).valid = true →
      (if (s.readV rs1).sg then -2 ^ (N - 1) ≤ x ∧ x ≤ 2 ^ (N - 1) - 1 else 0 ≤ x ∧ x ≤ 2 ^ N - 1) →
      ∃ t, exec (.tonat rs1 n) s = .next t ∧ Succeeded 0x1D t ∧
        (match n with
          | .n32 => OnlyData [0] s t ∧ t.data[0] = BitVec.ofInt 32 x
          | .n64 => OnlyData [0, 1] s t ∧ t.data[1] ++ t.data[0] = BitVec.ofInt 64 x))

/-! ## Properties of sequences of commands -/

/-- STW then LDW of the same type gives the value back in type, words and value (R125). -/
def Obligations.StwLdwRoundTrip : Prop :=
  ∀ (s : State) (rs1 rd : RegIx), (s.readV rs1).valid = true → Canonical (s.readV rs1) →
    ∃ t u, exec (.stw rs1) s = .next t ∧
      exec (.ldw rd (s.readV rs1).wc (s.readV rs1).sg (BitVec.ofNat 4 ((widthOf (s.readV rs1).wc + 31) / 32))) t =
        .next u ∧ u.errcode = 0 ∧ u.readV rd = s.readV rs1

/-- ADD is commutative and associative, and adding zero gives the value back (R152). -/
def Obligations.AddLaws : Prop :=
  (∀ (s : State) (rd rs1 rs2 : RegIx), exec (.add rd rs1 rs2) s = exec (.add rd rs2 rs1) s) ∧
  (∀ (s : State) (x y z p q : RegIx), (s.readV x).valid = true → (s.readV y).valid = true → (s.readV z).valid = true →
    SameType (s.readV x) (s.readV y) → SameType (s.readV x) (s.readV z) → p ≠ z → q ≠ x →
    ∃ t u t' u', exec (.add p x y) s = .next t ∧ exec (.add p p z) t = .next u ∧
      exec (.add q y z) s = .next t' ∧ exec (.add q x q) t' = .next u' ∧ u.readV p = u'.readV q) ∧
  (∀ (s : State) (rd rs1 rs2 : RegIx), (s.readV rs1).valid = true → (s.readV rs2).valid = true →
    SameType (s.readV rs1) (s.readV rs2) → Canonical (s.readV rs1) → val (s.readV rs2) = 0 →
    ∃ t, exec (.add rd rs1 rs2) s = .next t ∧ t.readV rd = s.readV rs1)

/-- Quotient times divisor plus remainder, with MUL and ADD, gives the dividend back, the overflow case included (R164). -/
def Obligations.DivisionIdentity : Prop :=
  ∀ (s : State) (a b q r p : RegIx), (s.readV a).valid = true → (s.readV b).valid = true →
    SameType (s.readV a) (s.readV b) → Canonical (s.readV a) → val (s.readV b) ≠ 0 →
    q ≠ r → b ≠ q → b ≠ r → p ≠ r →
    ∃ t u v, exec (.divrem q a b r) s = .next t ∧ exec (.mul p q b) t = .next u ∧ exec (.add p p r) u = .next v ∧
      v.readV p = s.readV a

/-- NARROW of WIDEN gives a canonical value back (R215). -/
def Obligations.NarrowOfWidenIsIdentity : Prop :=
  ∀ (s : State) (rd rd' rs1 : RegIx) (wc : WidthCode), (s.readV rs1).valid = true → Canonical (s.readV rs1) →
    widthOf (s.readV rs1).wc ≤ widthOf wc →
    ∃ t u, exec (.widen rd rs1 wc) s = .next t ∧ exec (.narrow rd' rd (s.readV rs1).wc) t = .next u ∧
      u.readV rd' = s.readV rs1

/-- The pseudo-instructions do what their names say (R103): MOV copies, LI loads a native integer that fits, NEG
negates, CVT converts across width and signedness, and SHLI, SHRI and GETBITI are the command with ARG set. -/
def Obligations.PseudoInstructionsDoWhatTheySay : Prop :=
  ∀ (s : State) (d a : RegIx), s.inflight = none →
    ((s.readV a).valid = true → Canonical (s.readV a) →
      ∃ t, atomicRun (pseudoMov d a) s = .next t ∧ t.readV d = s.readV a) ∧
    (∀ (wc : WidthCode) (imm : BitVec 64), -2 ^ (widthOf wc - 1) ≤ imm.toInt → imm.toInt ≤ 2 ^ (widthOf wc - 1) - 1 →
      ∃ t, atomicRun (pseudoLi d wc true imm) s = .next t ∧ t.readV d = mk wc true imm.toInt) ∧
    (∀ (wc : WidthCode) (imm : BitVec 64), imm.toNat < 2 ^ widthOf wc →
      ∃ t, atomicRun (pseudoLi d wc false imm) s = .next t ∧ t.readV d = mk wc false imm.toNat) ∧
    (∀ scratch, (s.readV a).valid = true → scratch ≠ a →
      ∃ t, atomicRun (pseudoNeg d a scratch (s.readV a).wc (s.readV a).sg) s = .next t ∧
        t.readV d = mk (s.readV a).wc (s.readV a).sg (-val (s.readV a))) ∧
    (∀ (wc : WidthCode) (sg : Bool), (s.readV a).valid = true →
      ∃ t, atomicRun (pseudoCvt d a (s.readV a).wc (s.readV a).sg wc sg) s = .next t ∧
        t.readV d = mk wc sg (val (s.readV a))) ∧
    (∀ n : Word, ∃ t u, atomicRun (pseudoShli d a n) s = .next t ∧ exec (.shl d a) { s with arg := n } = .next u ∧
      t.readV d = u.readV d ∧ t.errcode = u.errcode) ∧
    (∀ n : Word, ∃ t u, atomicRun (pseudoShri d a n) s = .next t ∧ exec (.shr d a) { s with arg := n } = .next u ∧
      t.readV d = u.readV d ∧ t.errcode = u.errcode) ∧
    (∀ n : Word, ∃ t u, atomicRun (pseudoGetbiti a n) s = .next t ∧ exec (.getbit a) { s with arg := n } = .next u ∧
      t.res = u.res ∧ t.errcode = u.errcode)

/-! ## Reset and the invariant -/

/-- The invariant holds at reset. -/
def Obligations.InvAtReset : Prop := Inv State.reset

/-- Every step keeps the invariant, from every state that has it (R33). -/
def Obligations.EveryStepKeepsInv : Prop := ∀ s t : State, Inv s → step s = .next t → Inv t

/-- Reset, the reset input and the soft reset set every piece of state to the value of the reset table (R52). -/
def Obligations.ResetSetsTheResetTable : Prop :=
  AtResetValues State.reset ∧
  (∀ s t : State, s.thisCycle.resetLine = true → step s = .next t → AtResetValues t) ∧
  (∀ (s : State) (x : Word), x.getLsbD 0 = true → AtResetValues (perform s (hostWrite .ctrl x)).1)

/-- With the reset input asserted and no access made or held, the step answers the reset state, whatever was in flight:
none of its results are committed (R270). What stands outside the block is kept (log entry 14). -/
def Obligations.HardwareResetAbandonsCommand : Prop :=
  ∀ s : State, s.thisCycle.resetLine = true → s.thisCycle.issue = none → s.pending = [] →
    ∃ t, step s = .next t ∧ AtResetValues t ∧ t.pending = [] ∧ t.inputs = s.inputs.tail ∧ t.responses = s.responses

/-- A step faults exactly when the host issues an access outside the window, reset or not (the model's choice, log entry
8); otherwise it is refused exactly when the reset input is asserted while the host makes or holds an access (R271; of a
held one it is the model's reading, log entry 6), and answers a next state in every other case. -/
def Obligations.StepStopsOnlyForMisplacedAccesses : Prop :=
  ∀ s : State,
    (step s = .refused .accessDuringReset ↔
      s.thisCycle.resetLine = true ∧ (∀ a, s.thisCycle.issue = some a → inWindow a = true) ∧
        (s.pending ≠ [] ∨ s.thisCycle.issue ≠ none)) ∧
    (step s = .fault .outsideWindow ↔
      ∃ a, s.thisCycle.issue = some a ∧ (a.addr < Config.mwauBase ∨ Config.mwauBase + 64 ≤ a.addr)) ∧
    ((∃ t, step s = .next t) ↔
      (∀ a, s.thisCycle.issue = some a → inWindow a = true) ∧
        (s.thisCycle.resetLine = true → s.pending = [] ∧ s.thisCycle.issue = none))

/-- A write to CTRL with bit 0 = 1 is held while a command is in flight; performed, it sets the reset state, the write
completes, and nothing outside the block changes (log entry 14). A write with bit 0 = 0 has no effect (R42, R272). That
the write is held in the commit step too, where R67 would let it be performed, is the model's choice (log entry 3). -/
def Obligations.SoftResetThroughCtrl : Prop :=
  (∀ (s : State) (x : Word), x.getLsbD 0 = true →
    AtResetValues (perform s (hostWrite .ctrl x)).1 ∧ (perform s (hostWrite .ctrl x)).2 = .done ∧
    SameOutside s (perform s (hostWrite .ctrl x)).1) ∧
  (∀ (s : State) (x : Word), x.getLsbD 0 = false → perform s (hostWrite .ctrl x) = (s, .done)) ∧
  (∀ (s t : State) (x : Word) (rest : List Access), busy s = true → s.thisCycle.resetLine = false →
    s.pending = hostWrite .ctrl x :: rest → step s = .next t →
    t.pending = hostWrite .ctrl x :: rest ++ s.thisCycle.issue.toList ∧ t.responses = s.responses)

/-! ## The host window -/

/-- Exactly the accesses of R65 get a bus error; it changes no state (R65, R248), and the machine goes on, which
is the model's choice (log entry 7). -/
def Obligations.BusErrorsChangeNothing : Prop :=
  (∀ (s : State) (a : Access), inWindow a = true →
    (perform s a = (s, .fault .busError) ↔
      a.bits ≠ 32 ∨ (a.addr - Config.mwauBase) % 4 ≠ 0 ∨ a.addr = Config.mwauBase + 0x18 ∨
        a.addr = Config.mwauBase + 0x1C)) ∧
  (∀ (s : State) (a : Access) (rest : List Access), s.inflight = none → s.thisCycle.resetLine = false →
    s.thisCycle.issue = none → s.pending = a :: rest → inWindow a = true →
    (a.bits ≠ 32 ∨ (a.addr - Config.mwauBase) % 4 ≠ 0 ∨ a.addr = Config.mwauBase + 0x18 ∨
      a.addr = Config.mwauBase + 0x1C) →
    step s = .next { s with
      pending := rest, inputs := s.inputs.tail, responses := s.responses ++ [.fault .busError] })

/-- The offsets of the registers, and what a read of each returns; a read changes nothing (R37 to R42, R45, R68). A
write to ARG or DATA[k] lands in that register, so that a read returns it, and changes nothing else (R37, R38, R68). -/
def Obligations.ReadsReturnTheRegisters : Prop :=
  (regAt 0x00 = some .id ∧ regAt 0x04 = some .ctrl ∧ regAt 0x08 = some .status ∧ regAt 0x0C = some .cmd ∧
    regAt 0x10 = some .arg ∧ regAt 0x14 = some .res ∧ regAt 0x18 = none ∧ regAt 0x1C = none ∧
    ∀ k : Fin 8, regAt (0x20 + 4 * k.val) = some (.data k)) ∧
  (∀ (s : State) (a : Access) (off : Nat) (r : WinReg), a = { addr := Config.mwauBase + off, bits := 32, op := .read } →
    regAt off = some r → inWindow a = true ∧ perform s a = (s, .data (readReg s r))) ∧
  (∀ s : State, readReg s .ctrl = 0 ∧ readReg s .cmd = s.cmd ∧ readReg s .arg = s.arg ∧ readReg s .res = s.res ∧
    ∀ k : Fin 8, readReg s (.data k) = s.data[k.val]) ∧
  (∀ (s : State) (x : Word), perform s (hostWrite .arg x) = ({ s with arg := x }, .done)) ∧
  (∀ (s : State) (k : Fin 8) (x : Word), ∃ t, perform s (hostWrite (.data k) x) = (t, .done) ∧
    t = { s with data := t.data } ∧ t.data[k.val] = x ∧ (∀ j : Fin 8, j ≠ k → t.data[j.val] = s.data[j.val]) ∧
    perform t (hostRead (.data k)) = (t, .data x))

/-- ID reads the constant, whose byte on lane 0 is 0x55; a write to it is ignored (R41, R62). -/
def Obligations.IdReadsItsConstant : Prop :=
  ∀ (s : State) (x : Word), readReg s .id = 0x4D574155 ∧ byteLane s .id 0 = 0x55 ∧ byteLane s .id 3 = 0x4D ∧
    perform s (hostWrite .id x) = (s, .done) ∧ perform s (hostRead .id) = (s, .data 0x4D574155)

/-- The fields of STATUS (R43): BUSY, ERR, ERRCODE and LASTOP at their places, every other bit 0. -/
def Obligations.StatusWordFields : Prop :=
  ∀ s : State, (statusWord s).getLsbD 0 = s.inflight.isSome ∧ (statusWord s).getLsbD 1 = decide (s.errcode ≠ 0) ∧
    (statusWord s).extractLsb' 2 2 = 0 ∧ (statusWord s).extractLsb' 4 4 = s.errcode ∧
    (statusWord s).extractLsb' 8 6 = s.lastop ∧ (statusWord s).extractLsb' 14 18 = 0

/-- A write to ID, STATUS or RES completes and has no effect, and is held like every other access while a command is in
flight (R66, R67). That it is held in the commit step too, where R67 would let it be performed, is the model's choice (log
entry 3). -/
def Obligations.ReadOnlyWritesAreIgnored : Prop :=
  ∀ (r : WinReg) (x : Word), r = .id ∨ r = .status ∨ r = .res →
    (∀ s : State, perform s (hostWrite r x) = (s, .done)) ∧
    (∀ (s t : State) (rest : List Access), busy s = true → s.thisCycle.resetLine = false →
      s.pending = hostWrite r x :: rest → step s = .next t →
      t.pending = hostWrite r x :: rest ++ s.thisCycle.issue.toList ∧ t.responses = s.responses)

/-- A write of `c` to CMD while idle accepts it: CMD reads `c`, BUSY is 1, the command waits LAT cycles, and nothing
else changes; at reset CMD is 0, and word 0 is illegal (R40, R46). The count of cycles is the model's (log entries 4, 18,
19). -/
def Obligations.CmdWriteAcceptsCommand : Prop :=
  (∀ (s : State) (c : Word) (rest : List Access), s.inflight = none → s.thisCycle.resetLine = false →
    s.thisCycle.issue = none → s.pending = hostWrite .cmd c :: rest →
    ∃ t f, step s = .next t ∧ readReg t .cmd = c ∧ busy t = true ∧ t.inflight = some f ∧ f.word = c ∧
      f.left + 1 = Config.lat c s.v s.arg s.data ∧ t.v = s.v ∧ t.data = s.data ∧ t.arg = s.arg ∧ t.res = s.res ∧
      t.errcode = s.errcode ∧ t.lastop = s.lastop ∧ t.pending = rest ∧ t.responses = s.responses ++ [.done]) ∧
  readReg State.reset .cmd = 0 ∧ ∀ i, decode 0 ≠ .ok i

/-- While a command is in flight, the oldest pending access is served only if it is a STATUS read, which returns BUSY =
1 and the previous command's ERR, ERRCODE and LASTOP; every other access stays, in order (R67, R71). With cycles left to
wait, the step answers a next state in which the count is one lower and no register has changed, whatever is pending or
to come (R46). That a STATUS read waits behind an older held access, and is answered before the commit, and how cycles
count, is the model's choice (log entries 3, 4, 17, 18). -/
def Obligations.StallHoldsAllButStatusReads : Prop :=
  (∀ (s t : State) (a : Access) (rest : List Access), busy s = true → s.thisCycle.resetLine = false →
    s.pending ++ s.thisCycle.issue.toList = a :: rest → step s = .next t →
    (isStatusRead a = false → t.pending = a :: rest ∧ t.responses = s.responses) ∧
    (isStatusRead a = true → t.pending = rest ∧
      ∃ w, t.responses = s.responses ++ [.data w] ∧ w.getLsbD 0 = true ∧ w.getLsbD 1 = decide (s.errcode ≠ 0) ∧
        w.extractLsb' 4 4 = s.errcode ∧ w.extractLsb' 8 6 = s.lastop)) ∧
  (∀ (s : State) (c : Word) (k : Nat), s.inflight = some { word := c, left := k + 1 } →
    s.thisCycle.resetLine = false → (∀ a, s.thisCycle.issue = some a → inWindow a = true) →
    ∃ t, step s = .next t ∧ t.inflight = some { word := c, left := k } ∧ (∀ j, t.readV j = s.readV j) ∧
      t.data = s.data ∧ t.arg = s.arg ∧ t.res = s.res ∧ t.cmd = s.cmd ∧ t.errcode = s.errcode ∧ t.lastop = s.lastop ∧
      t.inputs = s.inputs.tail ∧
      (s.pending ++ s.thisCycle.issue.toList = [] → t.pending = [] ∧ t.responses = s.responses))

/-- A command accepted with nothing else issued shows no effect for LAT cycles and then commits in one step (R26, R46).
States with accesses pending or inputs to come are left to `StallHoldsAllButStatusReads`, one step at a time. The count of cycles is the model's (log entries 4, 18, 19). -/
def Obligations.CommandCommitsAfterItsLatency : Prop :=
  (∀ (s : State) (c : Word) (k : Nat), s.inflight = some { word := c, left := k } → s.inputs = [] → s.pending = [] →
    (∀ n, n ≤ k → Host.Core.run core n s = .next { s with inflight := some { word := c, left := k - n } }) ∧
    Host.Core.run core (k + 1) s = commitWord c s) ∧
  (∀ (s : State) (c : Word), s.inflight = none → s.pending = [] → s.inputs = hostProgram [hostWrite .cmd c] →
    Host.Core.run core (1 + Config.lat c s.v s.arg s.data) s =
      commitWord c { s with cmd := c, inputs := [], responses := s.responses ++ [.done] })

/-- A host program without STATUS reads, issued to an idle machine, ends in the state and with the responses of the run
in which every command executes atomically at its CMD write, whatever the latencies (R71(3)). What a STATUS read returns does depend
on the latency, so programs with one are left out. The host's accesses and the
responses are the model's own fields (log entries 1, 2). -/
def Obligations.HostProgramsRunAtomically : Prop :=
  ∀ (s : State) (p : List Access), s.inflight = none → s.pending = [] → s.inputs = [] →
    (∀ a ∈ p, inWindow a = true ∧ isStatusRead a = false) →
    ∃ n t, atomicRun p s = .next t ∧ Host.Core.run core n { s with inputs := hostProgram p } = .next t ∧
      t.runEnded = true

/-! ## Reference datapaths -/

/-- The ripple adder and the borrow-propagating subtractor give ADD's and SUB's results (R151, R154). -/
def Obligations.AdderDatapathsAgree : Prop :=
  ∀ (s : State) (rd rs1 rs2 : RegIx), (s.readV rs1).valid = true → (s.readV rs2).valid = true →
    SameType (s.readV rs1) (s.readV rs2) →
    (∃ t, exec (.add rd rs1 rs2) s = .next t ∧ t.readV rd = datapathAdd (s.readV rs1) (s.readV rs2)) ∧
    (∃ t, exec (.sub rd rs1 rs2) s = .next t ∧ t.readV rd = datapathSub (s.readV rs1) (s.readV rs2))

/-- The schoolbook multiplier gives MUL's result (R157). -/
def Obligations.MultiplierDatapathAgrees : Prop :=
  ∀ (s : State) (rd rs1 rs2 : RegIx), (s.readV rs1).valid = true → (s.readV rs2).valid = true →
    SameType (s.readV rs1) (s.readV rs2) →
    ∃ t, exec (.mul rd rs1 rs2) s = .next t ∧ t.readV rd = datapathMul (s.readV rs1) (s.readV rs2)

/-- The restoring divider gives DIVREM's quotient and remainder (R165). -/
def Obligations.DividerDatapathAgrees : Prop :=
  ∀ (s : State) (rd rs1 rs2 rd2 : RegIx), rd ≠ rd2 → (s.readV rs1).valid = true → (s.readV rs2).valid = true →
    SameType (s.readV rs1) (s.readV rs2) → val (s.readV rs2) ≠ 0 →
    ∃ t, exec (.divrem rd rs1 rs2 rd2) s = .next t ∧
      (t.readV rd, t.readV rd2) = datapathDivrem (s.readV rs1) (s.readV rs2)

/-- Shifting by word and bit offset gives SHL's and SHR's results for amounts below the width (R185); the amounts of the
width or more are those of `ShlFollowsRule` and `ShrFollowsRule`. -/
def Obligations.ShifterDatapathsAgree : Prop :=
  ∀ (s : State) (rd rs1 : RegIx), (s.readV rs1).valid = true → Canonical (s.readV rs1) →
    s.arg.toNat < widthOf (s.readV rs1).wc →
    (∃ t, exec (.shl rd rs1) s = .next t ∧ t.readV rd = datapathShl (s.readV rs1) s.arg.toNat) ∧
    (∃ t, exec (.shr rd rs1) s = .next t ∧ t.readV rd = datapathShr (s.readV rs1) s.arg.toNat)

/-- Working word by word and canonicalizing afterward gives the results of AND, OR, XOR and NOT (R191). -/
def Obligations.BitwiseDatapathsAgree : Prop :=
  ∀ (s : State) (rd rs1 rs2 : RegIx), (s.readV rs1).valid = true → (s.readV rs2).valid = true →
    SameType (s.readV rs1) (s.readV rs2) →
    (∃ t, exec (.and rd rs1 rs2) s = .next t ∧
      t.readV rd = datapathBitwise (fun x y => x &&& y) (s.readV rs1) (s.readV rs2)) ∧
    (∃ t, exec (.or rd rs1 rs2) s = .next t ∧
      t.readV rd = datapathBitwise (fun x y => x ||| y) (s.readV rs1) (s.readV rs2)) ∧
    (∃ t, exec (.xor rd rs1 rs2) s = .next t ∧
      t.readV rd = datapathBitwise (fun x y => x ^^^ y) (s.readV rs1) (s.readV rs2)) ∧
    (∃ t, exec (.not rd rs1) s = .next t ∧ t.readV rd = datapathNot (s.readV rs1))

/-- Comparing the sign bit first and then the words as unsigned numbers gives CMP's answer for canonical values (R193). -/
def Obligations.CompareDatapathAgrees : Prop :=
  ∀ (s : State) (rs1 rs2 : RegIx), (s.readV rs1).valid = true → (s.readV rs2).valid = true →
    SameType (s.readV rs1) (s.readV rs2) → Canonical (s.readV rs1) → Canonical (s.readV rs2) →
    ∃ t, exec (.cmp rs1 rs2) s = .next t ∧
      t.res = (match datapathCmp (s.readV rs1) (s.readV rs2) with | .eq => 0 | .lt => 1 | .gt => 2)
end

