-- ==== Sys2Proof/Laws/Encoding.lean ====
section
/-! SUPPORT. The format's fields and its concatenation (30_encoding.md R91). -/

namespace Sys2Proof

theorem toNat_append_add {m n : Nat} (x : BitVec m) (y : BitVec n) : (x ++ y).toNat = x.toNat * 2 ^ n + y.toNat := by
  rw [BitVec.toNat_append, ← Nat.shiftLeft_add_eq_or_of_lt y.isLt, Nat.shiftLeft_eq]

section
variable (op : Opcode) (rd rs1 rs2 rd2 : RegIx) (wc : WidthCode) (sg : Bool) (cnt : BitVec 4)

/-- The number a command word is, from its fields (R91). -/
theorem packFields_toNat : (packFields op rd rs1 rs2 rd2 wc sg cnt).toNat =
    op.toNat * 67108864 + rd.toNat * 4194304 + rs1.toNat * 262144 + rs2.toNat * 16384 + rd2.toNat * 1024 +
      wc.toNat * 32 + sg.toNat * 16 + cnt.toNat := by
  have h : (packFields op rd rs1 rs2 rd2 wc sg cnt).toNat =
      (((((((op.toNat * 2 ^ 4 + rd.toNat) * 2 ^ 4 + rs1.toNat) * 2 ^ 4 + rs2.toNat) * 2 ^ 4 + rd2.toNat) * 2 ^ 5 +
        wc.toNat) * 2 ^ 1 + sg.toNat) * 2 ^ 4 + cnt.toNat) := by
    simp only [← BitVec.toNat_ofBool sg, ← toNat_append_add]
    rfl
  rw [h]; ring

@[simp] theorem opField_packFields : opField (packFields op rd rs1 rs2 rd2 wc sg cnt) = op := by
  apply BitVec.eq_of_toNat_eq
  have := sg.toNat_le
  rw [opField, BitVec.extractLsb'_toNat, packFields_toNat, Nat.shiftRight_eq_div_pow]
  omega

@[simp] theorem rdField_packFields : rdField (packFields op rd rs1 rs2 rd2 wc sg cnt) = rd := by
  apply BitVec.eq_of_toNat_eq
  have := sg.toNat_le
  rw [rdField, BitVec.extractLsb'_toNat, packFields_toNat, Nat.shiftRight_eq_div_pow]
  omega

@[simp] theorem rs1Field_packFields : rs1Field (packFields op rd rs1 rs2 rd2 wc sg cnt) = rs1 := by
  apply BitVec.eq_of_toNat_eq
  have := sg.toNat_le
  rw [rs1Field, BitVec.extractLsb'_toNat, packFields_toNat, Nat.shiftRight_eq_div_pow]
  omega

@[simp] theorem rs2Field_packFields : rs2Field (packFields op rd rs1 rs2 rd2 wc sg cnt) = rs2 := by
  apply BitVec.eq_of_toNat_eq
  have := sg.toNat_le
  rw [rs2Field, BitVec.extractLsb'_toNat, packFields_toNat, Nat.shiftRight_eq_div_pow]
  omega

@[simp] theorem rd2Field_packFields : rd2Field (packFields op rd rs1 rs2 rd2 wc sg cnt) = rd2 := by
  apply BitVec.eq_of_toNat_eq
  have := sg.toNat_le
  rw [rd2Field, BitVec.extractLsb'_toNat, packFields_toNat, Nat.shiftRight_eq_div_pow]
  omega

@[simp] theorem wcField_packFields : wcField (packFields op rd rs1 rs2 rd2 wc sg cnt) = wc := by
  apply BitVec.eq_of_toNat_eq
  have := sg.toNat_le
  rw [wcField, BitVec.extractLsb'_toNat, packFields_toNat, Nat.shiftRight_eq_div_pow]
  omega

@[simp] theorem sgField_packFields : sgField (packFields op rd rs1 rs2 rd2 wc sg cnt) = sg := by
  have h : (packFields op rd rs1 rs2 rd2 wc sg cnt).toNat / 2 ^ 4 % 2 = sg.toNat := by
    have := sg.toNat_le
    rw [packFields_toNat]; omega
  rw [sgField, BitVec.getLsbD, Nat.testBit_eq_decide_div_mod_eq, h]
  cases sg <;> rfl

@[simp] theorem cntField_packFields : cntField (packFields op rd rs1 rs2 rd2 wc sg cnt) = cnt := by
  apply BitVec.eq_of_toNat_eq
  have := sg.toNat_le
  rw [cntField, BitVec.extractLsb'_toNat, packFields_toNat, Nat.shiftRight_eq_div_pow]
  omega

end

/-- Every word is the concatenation of its fields (R91). -/
theorem packFields_fields (c : Word) :
    packFields (opField c) (rdField c) (rs1Field c) (rs2Field c) (rd2Field c) (wcField c) (sgField c) (cntField c) = c := by
  apply BitVec.eq_of_toNat_eq
  have hs : (sgField c).toNat = c.toNat / 2 ^ 4 % 2 := by
    rw [sgField, BitVec.getLsbD, Nat.testBit_eq_decide_div_mod_eq]
    rcases Nat.mod_two_eq_zero_or_one (c.toNat / 2 ^ 4) with h | h <;> rw [h] <;> rfl
  have := c.isLt
  rw [packFields_toNat, hs]
  simp only [opField, rdField, rs1Field, rs2Field, rd2Field, wcField, cntField, BitVec.extractLsb'_toNat,
    Nat.shiftRight_eq_div_pow]
  omega

/-- A bitwise AND of two words is the AND of their fields. -/
theorem packFields_and (op op' : Opcode) (rd rd' rs1 rs1' rs2 rs2' rd2 rd2' : RegIx) (wc wc' : WidthCode)
    (sg sg' : Bool) (cnt cnt' : BitVec 4) :
    packFields op rd rs1 rs2 rd2 wc sg cnt &&& packFields op' rd' rs1' rs2' rd2' wc' sg' cnt' =
      packFields (op &&& op') (rd &&& rd') (rs1 &&& rs1') (rs2 &&& rs2') (rd2 &&& rd2') (wc &&& wc') (sg && sg')
        (cnt &&& cnt') := by
  rw [← packFields_fields (packFields op rd rs1 rs2 rd2 wc sg cnt &&& _)]
  have ext (s l : Nat) (x y : Word) : (x &&& y).extractLsb' s l = x.extractLsb' s l &&& y.extractLsb' s l := by
    ext i hi; simp
  have hop := opField_packFields; have hrd := rdField_packFields; have h1 := rs1Field_packFields
  have h2 := rs2Field_packFields; have h3 := rd2Field_packFields; have hw := wcField_packFields
  have hs := sgField_packFields; have hc := cntField_packFields
  simp only [opField, rdField, rs1Field, rs2Field, rd2Field, wcField, sgField, cntField] at hop hrd h1 h2 h3 hw hs hc ⊢
  simp only [ext, BitVec.getLsbD_and, hop, hrd, h1, h2, h3, hw, hs, hc]

/-- Two words are one iff their fields are. -/
theorem packFields_inj (op op' : Opcode) (rd rd' rs1 rs1' rs2 rs2' rd2 rd2' : RegIx) (wc wc' : WidthCode)
    (sg sg' : Bool) (cnt cnt' : BitVec 4) :
    packFields op rd rs1 rs2 rd2 wc sg cnt = packFields op' rd' rs1' rs2' rd2' wc' sg' cnt' ↔
      op = op' ∧ rd = rd' ∧ rs1 = rs1' ∧ rs2 = rs2' ∧ rd2 = rd2' ∧ wc = wc' ∧ sg = sg' ∧ cnt = cnt' := by
  constructor
  · intro h
    refine ⟨?_, ?_, ?_, ?_, ?_, ?_, ?_, ?_⟩
    · simpa using congrArg opField h
    · simpa using congrArg rdField h
    · simpa using congrArg rs1Field h
    · simpa using congrArg rs2Field h
    · simpa using congrArg rd2Field h
    · simpa using congrArg wcField h
    · simpa using congrArg sgField h
    · simpa using congrArg cntField h
  · rintro ⟨rfl, rfl, rfl, rfl, rfl, rfl, rfl, rfl⟩; rfl

/-- The native width a count selects is the one that selects it. -/
theorem nativeOfCnt_eq_some {cnt : BitVec 4} {n : NativeWidth} : nativeOfCnt cnt = some n ↔ cnt = cntOfNative n := by
  unfold nativeOfCnt
  cases n <;> simp only [cntOfNative] <;> split_ifs <;> simp_all

@[simp] theorem nativeOfCnt_cntOfNative (n : NativeWidth) : nativeOfCnt (cntOfNative n) = some n :=
  nativeOfCnt_eq_some.mpr rfl

end Sys2Proof
end

