-- ==== Sys2Proof/Laws/State.lean ====
section
/-! SUPPORT. One lemma per field per update of the state, so that no proof unfolds a record update. -/

namespace Sys2Proof.Machine

/-! `State.writeV` -/

@[simp] theorem State.writeV_v (s : State) (i : RegIx) (r : VReg) : (s.writeV i r).v = s.v.set i.toNat r i.isLt := rfl
@[simp] theorem State.writeV_data (s : State) (i : RegIx) (r : VReg) : (s.writeV i r).data = s.data := rfl
@[simp] theorem State.writeV_arg (s : State) (i : RegIx) (r : VReg) : (s.writeV i r).arg = s.arg := rfl
@[simp] theorem State.writeV_res (s : State) (i : RegIx) (r : VReg) : (s.writeV i r).res = s.res := rfl
@[simp] theorem State.writeV_cmd (s : State) (i : RegIx) (r : VReg) : (s.writeV i r).cmd = s.cmd := rfl
@[simp] theorem State.writeV_errcode (s : State) (i : RegIx) (r : VReg) : (s.writeV i r).errcode = s.errcode := rfl
@[simp] theorem State.writeV_lastop (s : State) (i : RegIx) (r : VReg) : (s.writeV i r).lastop = s.lastop := rfl
@[simp] theorem State.writeV_inflight (s : State) (i : RegIx) (r : VReg) : (s.writeV i r).inflight = s.inflight := rfl
@[simp] theorem State.writeV_pending (s : State) (i : RegIx) (r : VReg) : (s.writeV i r).pending = s.pending := rfl
@[simp] theorem State.writeV_inputs (s : State) (i : RegIx) (r : VReg) : (s.writeV i r).inputs = s.inputs := rfl
@[simp] theorem State.writeV_responses (s : State) (i : RegIx) (r : VReg) : (s.writeV i r).responses = s.responses := rfl

/-! `State.writeData` -/

@[simp] theorem State.writeData_v (s : State) (k : Fin 8) (x : Word) : (s.writeData k x).v = s.v := rfl
@[simp] theorem State.writeData_data (s : State) (k : Fin 8) (x : Word) : (s.writeData k x).data = s.data.set k.val x k.isLt := rfl
@[simp] theorem State.writeData_arg (s : State) (k : Fin 8) (x : Word) : (s.writeData k x).arg = s.arg := rfl
@[simp] theorem State.writeData_res (s : State) (k : Fin 8) (x : Word) : (s.writeData k x).res = s.res := rfl
@[simp] theorem State.writeData_cmd (s : State) (k : Fin 8) (x : Word) : (s.writeData k x).cmd = s.cmd := rfl
@[simp] theorem State.writeData_errcode (s : State) (k : Fin 8) (x : Word) : (s.writeData k x).errcode = s.errcode := rfl
@[simp] theorem State.writeData_lastop (s : State) (k : Fin 8) (x : Word) : (s.writeData k x).lastop = s.lastop := rfl
@[simp] theorem State.writeData_inflight (s : State) (k : Fin 8) (x : Word) : (s.writeData k x).inflight = s.inflight := rfl
@[simp] theorem State.writeData_pending (s : State) (k : Fin 8) (x : Word) : (s.writeData k x).pending = s.pending := rfl
@[simp] theorem State.writeData_inputs (s : State) (k : Fin 8) (x : Word) : (s.writeData k x).inputs = s.inputs := rfl
@[simp] theorem State.writeData_responses (s : State) (k : Fin 8) (x : Word) : (s.writeData k x).responses = s.responses := rfl

/-! `State.writeDataAll` -/

@[simp] theorem State.writeDataAll_v (s : State) (d : Vector Word 8) : (s.writeDataAll d).v = s.v := rfl
@[simp] theorem State.writeDataAll_data (s : State) (d : Vector Word 8) : (s.writeDataAll d).data = d := rfl
@[simp] theorem State.writeDataAll_arg (s : State) (d : Vector Word 8) : (s.writeDataAll d).arg = s.arg := rfl
@[simp] theorem State.writeDataAll_res (s : State) (d : Vector Word 8) : (s.writeDataAll d).res = s.res := rfl
@[simp] theorem State.writeDataAll_cmd (s : State) (d : Vector Word 8) : (s.writeDataAll d).cmd = s.cmd := rfl
@[simp] theorem State.writeDataAll_errcode (s : State) (d : Vector Word 8) : (s.writeDataAll d).errcode = s.errcode := rfl
@[simp] theorem State.writeDataAll_lastop (s : State) (d : Vector Word 8) : (s.writeDataAll d).lastop = s.lastop := rfl
@[simp] theorem State.writeDataAll_inflight (s : State) (d : Vector Word 8) : (s.writeDataAll d).inflight = s.inflight := rfl
@[simp] theorem State.writeDataAll_pending (s : State) (d : Vector Word 8) : (s.writeDataAll d).pending = s.pending := rfl
@[simp] theorem State.writeDataAll_inputs (s : State) (d : Vector Word 8) : (s.writeDataAll d).inputs = s.inputs := rfl
@[simp] theorem State.writeDataAll_responses (s : State) (d : Vector Word 8) : (s.writeDataAll d).responses = s.responses := rfl

/-! `State.writeRes` -/

@[simp] theorem State.writeRes_v (s : State) (x : Word) : (s.writeRes x).v = s.v := rfl
@[simp] theorem State.writeRes_data (s : State) (x : Word) : (s.writeRes x).data = s.data := rfl
@[simp] theorem State.writeRes_arg (s : State) (x : Word) : (s.writeRes x).arg = s.arg := rfl
@[simp] theorem State.writeRes_res (s : State) (x : Word) : (s.writeRes x).res = x := rfl
@[simp] theorem State.writeRes_cmd (s : State) (x : Word) : (s.writeRes x).cmd = s.cmd := rfl
@[simp] theorem State.writeRes_errcode (s : State) (x : Word) : (s.writeRes x).errcode = s.errcode := rfl
@[simp] theorem State.writeRes_lastop (s : State) (x : Word) : (s.writeRes x).lastop = s.lastop := rfl
@[simp] theorem State.writeRes_inflight (s : State) (x : Word) : (s.writeRes x).inflight = s.inflight := rfl
@[simp] theorem State.writeRes_pending (s : State) (x : Word) : (s.writeRes x).pending = s.pending := rfl
@[simp] theorem State.writeRes_inputs (s : State) (x : Word) : (s.writeRes x).inputs = s.inputs := rfl
@[simp] theorem State.writeRes_responses (s : State) (x : Word) : (s.writeRes x).responses = s.responses := rfl

/-! `State.succeed` -/

@[simp] theorem State.succeed_v (s : State) (op : Opcode) : (s.succeed op).v = s.v := rfl
@[simp] theorem State.succeed_data (s : State) (op : Opcode) : (s.succeed op).data = s.data := rfl
@[simp] theorem State.succeed_arg (s : State) (op : Opcode) : (s.succeed op).arg = s.arg := rfl
@[simp] theorem State.succeed_res (s : State) (op : Opcode) : (s.succeed op).res = s.res := rfl
@[simp] theorem State.succeed_cmd (s : State) (op : Opcode) : (s.succeed op).cmd = s.cmd := rfl
@[simp] theorem State.succeed_errcode (s : State) (op : Opcode) : (s.succeed op).errcode = 0 := rfl
@[simp] theorem State.succeed_lastop (s : State) (op : Opcode) : (s.succeed op).lastop = op := rfl
@[simp] theorem State.succeed_inflight (s : State) (op : Opcode) : (s.succeed op).inflight = none := rfl
@[simp] theorem State.succeed_pending (s : State) (op : Opcode) : (s.succeed op).pending = s.pending := rfl
@[simp] theorem State.succeed_inputs (s : State) (op : Opcode) : (s.succeed op).inputs = s.inputs := rfl
@[simp] theorem State.succeed_responses (s : State) (op : Opcode) : (s.succeed op).responses = s.responses := rfl

/-! `State.fail` -/

@[simp] theorem State.fail_v (s : State) (op : Opcode) (e : ErrKind) : (s.fail op e).v = s.v := rfl
@[simp] theorem State.fail_data (s : State) (op : Opcode) (e : ErrKind) : (s.fail op e).data = s.data := rfl
@[simp] theorem State.fail_arg (s : State) (op : Opcode) (e : ErrKind) : (s.fail op e).arg = s.arg := rfl
@[simp] theorem State.fail_res (s : State) (op : Opcode) (e : ErrKind) : (s.fail op e).res = s.res := rfl
@[simp] theorem State.fail_cmd (s : State) (op : Opcode) (e : ErrKind) : (s.fail op e).cmd = s.cmd := rfl
@[simp] theorem State.fail_errcode (s : State) (op : Opcode) (e : ErrKind) : (s.fail op e).errcode = errCode e := rfl
@[simp] theorem State.fail_lastop (s : State) (op : Opcode) (e : ErrKind) : (s.fail op e).lastop = op := rfl
@[simp] theorem State.fail_inflight (s : State) (op : Opcode) (e : ErrKind) : (s.fail op e).inflight = none := rfl
@[simp] theorem State.fail_pending (s : State) (op : Opcode) (e : ErrKind) : (s.fail op e).pending = s.pending := rfl
@[simp] theorem State.fail_inputs (s : State) (op : Opcode) (e : ErrKind) : (s.fail op e).inputs = s.inputs := rfl
@[simp] theorem State.fail_responses (s : State) (op : Opcode) (e : ErrKind) : (s.fail op e).responses = s.responses := rfl

/-! `State.accept` -/

@[simp] theorem State.accept_v (s : State) (c : Word) : (s.accept c).v = s.v := rfl
@[simp] theorem State.accept_data (s : State) (c : Word) : (s.accept c).data = s.data := rfl
@[simp] theorem State.accept_arg (s : State) (c : Word) : (s.accept c).arg = s.arg := rfl
@[simp] theorem State.accept_res (s : State) (c : Word) : (s.accept c).res = s.res := rfl
@[simp] theorem State.accept_cmd (s : State) (c : Word) : (s.accept c).cmd = c := rfl
@[simp] theorem State.accept_errcode (s : State) (c : Word) : (s.accept c).errcode = s.errcode := rfl
@[simp] theorem State.accept_lastop (s : State) (c : Word) : (s.accept c).lastop = s.lastop := rfl
@[simp] theorem State.accept_inflight (s : State) (c : Word) : (s.accept c).inflight = some { word := c, left := Config.lat c s.v s.arg s.data - 1 } := rfl
@[simp] theorem State.accept_pending (s : State) (c : Word) : (s.accept c).pending = s.pending := rfl
@[simp] theorem State.accept_inputs (s : State) (c : Word) : (s.accept c).inputs = s.inputs := rfl
@[simp] theorem State.accept_responses (s : State) (c : Word) : (s.accept c).responses = s.responses := rfl

/-! `State.resetBlock` -/

@[simp] theorem State.resetBlock_v (s : State) : (s.resetBlock).v = Vector.replicate 16 VReg.empty := rfl
@[simp] theorem State.resetBlock_data (s : State) : (s.resetBlock).data = Vector.replicate 8 0 := rfl
@[simp] theorem State.resetBlock_arg (s : State) : (s.resetBlock).arg = 0 := rfl
@[simp] theorem State.resetBlock_res (s : State) : (s.resetBlock).res = 0 := rfl
@[simp] theorem State.resetBlock_cmd (s : State) : (s.resetBlock).cmd = 0 := rfl
@[simp] theorem State.resetBlock_errcode (s : State) : (s.resetBlock).errcode = 0 := rfl
@[simp] theorem State.resetBlock_lastop (s : State) : (s.resetBlock).lastop = 0 := rfl
@[simp] theorem State.resetBlock_inflight (s : State) : (s.resetBlock).inflight = none := rfl
@[simp] theorem State.resetBlock_pending (s : State) : (s.resetBlock).pending = s.pending := rfl
@[simp] theorem State.resetBlock_inputs (s : State) : (s.resetBlock).inputs = s.inputs := rfl
@[simp] theorem State.resetBlock_responses (s : State) : (s.resetBlock).responses = s.responses := rfl

/-! `State.presentCommand` -/

@[simp] theorem State.presentCommand_v (s : State) (c : Word) : (s.presentCommand c).v = s.v := rfl
@[simp] theorem State.presentCommand_data (s : State) (c : Word) : (s.presentCommand c).data = s.data := rfl
@[simp] theorem State.presentCommand_arg (s : State) (c : Word) : (s.presentCommand c).arg = s.arg := rfl
@[simp] theorem State.presentCommand_res (s : State) (c : Word) : (s.presentCommand c).res = s.res := rfl
@[simp] theorem State.presentCommand_cmd (s : State) (c : Word) : (s.presentCommand c).cmd = c := rfl
@[simp] theorem State.presentCommand_errcode (s : State) (c : Word) : (s.presentCommand c).errcode = s.errcode := rfl
@[simp] theorem State.presentCommand_lastop (s : State) (c : Word) : (s.presentCommand c).lastop = s.lastop := rfl
@[simp] theorem State.presentCommand_inflight (s : State) (c : Word) : (s.presentCommand c).inflight = some { word := c, left := 0 } := rfl
@[simp] theorem State.presentCommand_pending (s : State) (c : Word) : (s.presentCommand c).pending = s.pending := rfl
@[simp] theorem State.presentCommand_inputs (s : State) (c : Word) : (s.presentCommand c).inputs = Cycle.quiet :: s.inputs := rfl
@[simp] theorem State.presentCommand_responses (s : State) (c : Word) : (s.presentCommand c).responses = s.responses := rfl

/-! `State.takeInput` -/

@[simp] theorem State.takeInput_v (s : State) : (s.takeInput).v = s.v := rfl
@[simp] theorem State.takeInput_data (s : State) : (s.takeInput).data = s.data := rfl
@[simp] theorem State.takeInput_arg (s : State) : (s.takeInput).arg = s.arg := rfl
@[simp] theorem State.takeInput_res (s : State) : (s.takeInput).res = s.res := rfl
@[simp] theorem State.takeInput_cmd (s : State) : (s.takeInput).cmd = s.cmd := rfl
@[simp] theorem State.takeInput_errcode (s : State) : (s.takeInput).errcode = s.errcode := rfl
@[simp] theorem State.takeInput_lastop (s : State) : (s.takeInput).lastop = s.lastop := rfl
@[simp] theorem State.takeInput_inflight (s : State) : (s.takeInput).inflight = s.inflight := rfl
@[simp] theorem State.takeInput_pending (s : State) : (s.takeInput).pending = s.pending ++ s.thisCycle.issue.toList := rfl
@[simp] theorem State.takeInput_inputs (s : State) : (s.takeInput).inputs = s.inputs.tail := rfl
@[simp] theorem State.takeInput_responses (s : State) : (s.takeInput).responses = s.responses := rfl

/-! Reading a value register after an update -/

@[simp] theorem State.readV_writeV_self (s : State) (i : RegIx) (r : VReg) : (s.writeV i r).readV i = r := by
  simp [State.readV, State.writeV]

theorem State.readV_writeV_ne (s : State) (i j : RegIx) (r : VReg) (h : j ≠ i) :
    (s.writeV i r).readV j = s.readV j := by
  have hne : i.toNat ≠ j.toNat := fun e => h (BitVec.eq_of_toNat_eq e.symm)
  simp [State.readV, State.writeV, hne]

/-- What a value register reads after a write to `i`. (The lemmas below are not stated by `rfl`: so used, the kernel
would unfold the register file at every rewriting.) -/
theorem State.readV_writeV (s : State) (i j : RegIx) (r : VReg) :
    (s.writeV i r).readV j = if j = i then r else s.readV j := by
  split
  · subst j; simp
  · exact State.readV_writeV_ne s i j r ‹_›

@[simp] theorem State.readV_writeData (s : State) (k : Fin 8) (x : Word) (j : RegIx) : (s.writeData k x).readV j = s.readV j := by
  simp [State.readV]
@[simp] theorem State.readV_writeDataAll (s : State) (d : Vector Word 8) (j : RegIx) : (s.writeDataAll d).readV j = s.readV j := by
  simp [State.readV]
@[simp] theorem State.readV_writeRes (s : State) (x : Word) (j : RegIx) : (s.writeRes x).readV j = s.readV j := by
  simp [State.readV]
@[simp] theorem State.readV_succeed (s : State) (op : Opcode) (j : RegIx) : (s.succeed op).readV j = s.readV j := by
  simp [State.readV]
@[simp] theorem State.readV_fail (s : State) (op : Opcode) (e : ErrKind) (j : RegIx) : (s.fail op e).readV j = s.readV j := by
  simp [State.readV]
@[simp] theorem State.readV_accept (s : State) (c : Word) (j : RegIx) : (s.accept c).readV j = s.readV j := by
  simp [State.readV]
@[simp] theorem State.readV_presentCommand (s : State) (c : Word) (j : RegIx) : (s.presentCommand c).readV j = s.readV j := by
  simp [State.readV]
@[simp] theorem State.readV_takeInput (s : State) (j : RegIx) : (s.takeInput).readV j = s.readV j := by
  simp [State.readV]

@[simp] theorem State.readV_resetBlock (s : State) (j : RegIx) : s.resetBlock.readV j = VReg.empty := by
  simp [State.readV]

@[simp] theorem State.readV_reset (j : RegIx) : State.reset.readV j = VReg.empty := by
  simp [State.readV, State.reset]

end Sys2Proof.Machine
end

