-- ==== Sys2Proof/Laws/Values.lean ====
section
/-! SUPPORT. What `mk`, `pat` and `val` give: the lemmas that say once everything about values. -/

namespace Sys2Proof.Machine

theorem widthOf_pos (wc : WidthCode) : 0 < widthOf wc := by unfold widthOf; omega

theorem widthOf_le (wc : WidthCode) : widthOf wc ≤ 256 := by
  have := wc.isLt
  unfold widthOf; omega

theorem wordsOf_le (wc : WidthCode) : wordsOf wc ≤ 8 := by
  have := widthOf_le wc
  unfold wordsOf; omega

theorem widthOf_le_words (wc : WidthCode) : widthOf wc ≤ 32 * wordsOf wc := by
  unfold wordsOf; omega

theorem widthOf_injective {a b : WidthCode} (h : widthOf a = widthOf b) : a = b := by
  apply BitVec.eq_of_toNat_eq
  unfold widthOf at h; omega

theorem wordsNat_lt (ws : List Word) : wordsNat ws < 2 ^ (32 * ws.length) := by
  induction ws with
  | nil => simp [wordsNat]
  | cons x xs ih =>
    have hx := x.isLt
    have e : (2 : Nat) ^ (32 * (x :: xs).length) = 2 ^ 32 * 2 ^ (32 * xs.length) := by
      rw [← Nat.pow_add]; simp; ring
    rw [e]
    simp only [wordsNat]
    calc x.toNat + 2 ^ 32 * wordsNat xs < 2 ^ 32 + 2 ^ 32 * wordsNat xs := by omega
      _ = 2 ^ 32 * (wordsNat xs + 1) := by ring
      _ ≤ 2 ^ 32 * 2 ^ (32 * xs.length) := Nat.mul_le_mul_left _ ih

/-- The words of a pattern, read back, are the pattern. -/
theorem wordsNat_wordAt (q n : Nat) : wordsNat ((List.range n).map (wordAt q)) = q % 2 ^ (32 * n) := by
  induction n generalizing q with
  | zero => simp [wordsNat, Nat.mod_one]
  | succ n ih =>
    rw [List.range_succ_eq_map, List.map_cons, List.map_map]
    have shift : wordAt q ∘ Nat.succ = wordAt (q / 2 ^ 32) := by
      funext j
      simp only [Function.comp, wordAt, Nat.shiftRight_eq_div_pow, Nat.div_div_eq_div_mul, ← Nat.pow_add]
      congr 3
      simp [Nat.succ_eq_add_one]; ring
    rw [shift, wordsNat, ih]
    have e : 32 * (n + 1) = 32 + 32 * n := by ring
    rw [e, Nat.pow_add, Nat.mod_mul]
    simp [wordAt]

theorem truncBits_lt (m : Nat) (x : Int) : truncBits m x < 2 ^ m := by
  have h : (0 : Int) < 2 ^ m := by positivity
  have h1 := Int.emod_nonneg x (ne_of_gt h)
  have h2 := Int.emod_lt_of_pos x h
  unfold truncBits
  zify
  rw [Int.toNat_of_nonneg h1]; exact_mod_cast h2

theorem truncBits_cast (m : Nat) (x : Int) : (truncBits m x : Int) = x % 2 ^ m := by
  have h : (0 : Int) < 2 ^ m := by positivity
  exact Int.toNat_of_nonneg (Int.emod_nonneg x (ne_of_gt h))

theorem truncBits_natCast (m p : Nat) : truncBits m (p : Int) = p % 2 ^ m := by
  zify; rw [truncBits_cast]

theorem padded_lt (wc : WidthCode) (sg : Bool) (p : Nat) (h : p < 2 ^ widthOf wc) :
    padded wc sg p < 2 ^ (32 * wordsOf wc) := by
  have le := Nat.pow_le_pow_right (n := 2) (by omega) (widthOf_le_words wc)
  unfold padded; split <;> omega

theorem padded_mod (wc : WidthCode) (sg : Bool) (p : Nat) (h : p < 2 ^ widthOf wc) :
    padded wc sg p % 2 ^ widthOf wc = p := by
  unfold padded
  split
  · have e : (2 : Nat) ^ (32 * wordsOf wc) = 2 ^ widthOf wc * 2 ^ (32 * wordsOf wc - widthOf wc) := by
      rw [← Nat.pow_add]; congr 1; have := widthOf_le_words wc; omega
    have e2 : p + (2 ^ (32 * wordsOf wc) - 2 ^ widthOf wc) =
        p + 2 ^ widthOf wc * (2 ^ (32 * wordsOf wc - widthOf wc) - 1) := by
      rw [e, Nat.mul_sub, Nat.mul_one]
    rw [e2, Nat.add_mul_mod_self_left, Nat.mod_eq_of_lt h]
  · exact Nat.mod_eq_of_lt h

@[simp] theorem mk_valid (wc : WidthCode) (sg : Bool) (x : Int) : (mk wc sg x).valid = true := rfl
@[simp] theorem mk_wc (wc : WidthCode) (sg : Bool) (x : Int) : (mk wc sg x).wc = wc := rfl
@[simp] theorem mk_sg (wc : WidthCode) (sg : Bool) (x : Int) : (mk wc sg x).sg = sg := rfl

theorem length_valueWords (a : VReg) : (valueWords a).length = wordsOf a.wc := by
  have := wordsOf_le a.wc
  simp [valueWords]; omega

/-- The stored words of a canonical value are the words of its padded pattern. -/
theorem valueWords_mk (wc : WidthCode) (sg : Bool) (x : Int) :
    valueWords (mk wc sg x) = (List.range (wordsOf wc)).map (wordAt (padded wc sg (truncBits (widthOf wc) x))) := by
  apply List.ext_getElem
  · simp [length_valueWords]
  · intro j h1 h2
    have hj : j < wordsOf wc := by simpa [length_valueWords] using h1
    simp [valueWords, mk, hj]

/-- The words above the value of a canonical register are 0 (10_state.md R32). -/
theorem mk_wd_high (wc : WidthCode) (sg : Bool) (x : Int) (j : Fin 8) (h : wordsOf wc ≤ j.val) :
    (mk wc sg x).wd[j.val] = 0 := by
  simp [mk, Nat.not_lt.mpr h]

/-- `pat` of a canonical value is the integer reduced modulo `2^w`. -/
@[simp] theorem pat_mk (wc : WidthCode) (sg : Bool) (x : Int) : pat (mk wc sg x) = truncBits (widthOf wc) x := by
  have h := truncBits_lt (widthOf wc) x
  rw [pat, valueWords_mk, wordsNat_wordAt, mk_wc, Nat.mod_eq_of_lt (padded_lt wc sg _ h), padded_mod wc sg _ h]

theorem pat_lt (a : VReg) : pat a < 2 ^ widthOf a.wc := Nat.mod_lt _ (by positivity)

/-- A value and its pattern agree modulo `2^w`. -/
theorem sval_emod (w p : Nat) (h : p < 2 ^ w) : sval w p % 2 ^ w = p := by
  unfold sval
  split
  · rw [Int.sub_emod_right]; exact Int.emod_eq_of_lt (by positivity) (by exact_mod_cast h)
  · exact Int.emod_eq_of_lt (by positivity) (by exact_mod_cast h)

theorem val_emod (a : VReg) : val a % 2 ^ widthOf a.wc = pat a := by
  unfold val
  split
  · exact sval_emod _ _ (pat_lt a)
  · exact Int.emod_eq_of_lt (by positivity) (by exact_mod_cast pat_lt a)

theorem truncBits_val (a : VReg) : truncBits (widthOf a.wc) (val a) = pat a := by
  zify; rw [truncBits_cast, val_emod]

/-- `mk` depends on the integer only modulo `2^w`. -/
theorem mk_congr (wc : WidthCode) (sg : Bool) {x y : Int} (h : x % 2 ^ widthOf wc = y % 2 ^ widthOf wc) :
    mk wc sg x = mk wc sg y := by
  have : truncBits (widthOf wc) x = truncBits (widthOf wc) y := by unfold truncBits; rw [h]
  unfold mk; rw [this]

/-- Canonicalizing a value or its pattern gives one register. -/
theorem mk_val_eq_mk_pat (a : VReg) (sg : Bool) : mk a.wc sg (val a) = mk a.wc sg (pat a) :=
  mk_congr _ _ (by rw [val_emod, Int.emod_eq_of_lt (by positivity) (by exact_mod_cast pat_lt a)])

/-- Every register `mk` gives is canonical (10_state.md R33). -/
theorem mk_val_mk (wc : WidthCode) (sg : Bool) (x : Int) : mk wc sg (val (mk wc sg x)) = mk wc sg x := by
  apply mk_congr
  have := val_emod (mk wc sg x)
  rw [mk_wc] at this
  rw [this, pat_mk, truncBits_cast]

/-- A `w`-bit pattern has its top bit set iff it is at least `2^(w-1)`. -/
theorem testBit_top (w p : Nat) (hw : 0 < w) (h : p < 2 ^ w) : p.testBit (w - 1) = decide (2 ^ (w - 1) ≤ p) := by
  by_cases hp : 2 ^ (w - 1) ≤ p
  · have hw1 : w - 1 + 1 = w := by omega
    simpa [hp] using Nat.testBit_of_two_pow_le_and_two_pow_add_one_gt hp (by rwa [hw1])
  · simpa [hp] using Nat.testBit_lt_two_pow (Nat.lt_of_not_le hp)

/-- The signed reading is in the signed range. -/
theorem sval_range (w p : Nat) (hw : 0 < w) (h : p < 2 ^ w) :
    -(2 : Int) ^ (w - 1) ≤ sval w p ∧ sval w p < (2 : Int) ^ (w - 1) := by
  have e : (2 : Nat) ^ w = 2 * 2 ^ (w - 1) := by rw [← pow_succ']; congr 1; omega
  have e' : (2 : Int) ^ w = 2 * 2 ^ (w - 1) := by exact_mod_cast e
  unfold sval
  rw [testBit_top w p hw h]
  rw [e] at h
  rw [e']
  have hc : (p : Int) < 2 * 2 ^ (w - 1) := by exact_mod_cast h
  split
  · have : (2 : Int) ^ (w - 1) ≤ p := by exact_mod_cast of_decide_eq_true ‹_›
    constructor <;> linarith
  · have : (p : Int) < 2 ^ (w - 1) := by
      have := ‹¬_›; simp at this; exact_mod_cast this
    constructor
    · have : (0 : Int) ≤ p := by positivity
      have : (0 : Int) < 2 ^ (w - 1) := by positivity
      linarith
    · exact ‹(p : Int) < 2 ^ (w - 1)›

/-- An integer in the range of a type is the value `mk` stores (00_scope.md R16, R20). -/
theorem val_mk_of_inRange (wc : WidthCode) (sg : Bool) (x : Int) (h : inRange x (widthOf wc) sg = true) :
    val (mk wc sg x) = x := by
  have hw := widthOf_pos wc
  have hlt := truncBits_lt (widthOf wc) x
  cases sg with
  | false =>
    simp [inRange] at h
    simp only [val, mk_sg, pat_mk, Bool.false_eq_true, if_false, truncBits_cast]
    exact Int.emod_eq_of_lt h.1 (by omega)
  | true =>
    simp [inRange] at h
    have r := sval_range _ _ hw hlt
    have m := sval_emod _ _ hlt
    simp only [val, mk_sg, pat_mk, if_true, mk_wc]
    rw [truncBits_cast] at m
    have e' : (2 : Int) ^ widthOf wc = 2 * 2 ^ (widthOf wc - 1) := by
      rw [← pow_succ', Nat.sub_add_cancel hw]
    have d : (2 : Int) ^ widthOf wc ∣ sval (widthOf wc) (truncBits (widthOf wc) x) - x :=
      Int.dvd_of_emod_eq_zero (by rw [Int.sub_emod, m]; simp)
    obtain ⟨k, hk⟩ := d
    have P : (0 : Int) < 2 ^ (widthOf wc - 1) := by positivity
    rw [e'] at hk
    have k0 : k = 0 := by
      have h1 : -(2 * 2 ^ (widthOf wc - 1)) < 2 * 2 ^ (widthOf wc - 1) * k := by rw [← hk]; linarith [r.1, h.2]
      have h2 : 2 * 2 ^ (widthOf wc - 1) * k < 2 * 2 ^ (widthOf wc - 1) := by rw [← hk]; linarith [r.2, h.1]
      have h1' : -1 < k := by by_contra hk; have : k ≤ -1 := by omega
                              nlinarith
      have h2' : k < 1 := by by_contra hk; have : 1 ≤ k := by omega
                             nlinarith
      omega
    subst k0
    linarith

/-- The value of every register lies in the range of its type. -/
theorem val_inRange (a : VReg) : inRange (val a) (widthOf a.wc) a.sg = true := by
  have h := pat_lt a
  cases hs : a.sg with
  | false =>
    simp [inRange, val, hs]
    have : (pat a : Int) < 2 ^ widthOf a.wc := by exact_mod_cast h
    omega
  | true =>
    have r := sval_range _ _ (widthOf_pos a.wc) h
    simp [inRange, val, hs]
    omega

end Sys2Proof.Machine
end

