-- ==== Sys2Proof/Laws/Ops.lean ====
section
/-! SUPPORT. What the shared operations of the meanings can do, each said once. -/

namespace Sys2Proof.Machine

@[simp] theorem ok_bind {α β : Type} (x : α) (f : α → Except ErrKind β) : (Except.ok x >>= f) = f x := rfl

@[simp] theorem error_bind {α β : Type} (e : ErrKind) (f : α → Except ErrKind β) :
    ((Except.error e : Except ErrKind α) >>= f) = .error e := rfl

@[simp] theorem complete_ok (op : Opcode) (s t : State) : complete op s (.ok t) = .next (t.succeed op) := rfl

@[simp] theorem complete_error (op : Opcode) (s : State) (e : ErrKind) :
    complete op s (.error e) = .next (s.fail op e) := rfl

/-- A commit answers a next state: the rule's writes completed, or the state as it was with the error completion. -/
theorem complete_cases {op : Opcode} {s t : State} {r : Except ErrKind State} (h : complete op s r = .next t) :
    (∃ u, r = .ok u ∧ t = u.succeed op) ∨ (∃ e, r = .error e ∧ t = s.fail op e) := by
  cases r with
  | ok u => exact .inl ⟨u, rfl, by simpa using h.symm⟩
  | error e => exact .inr ⟨e, rfl, by simpa using h.symm⟩

theorem complete_next (op : Opcode) (s : State) (r : Except ErrKind State) : ∃ t, complete op s r = .next t := by
  cases r <;> simp

theorem src_valid {s : State} {i : RegIx} (h : (s.readV i).valid = true) : src s i = .ok (s.readV i) := by
  simp [src, h]

theorem src_empty {s : State} {i : RegIx} (h : (s.readV i).valid = false) : src s i = .error .uninitialized := by
  simp [src, h]

/-- What reading a source operand can answer. -/
theorem src_cases (s : State) (i : RegIx) :
    ((s.readV i).valid = true ∧ src s i = .ok (s.readV i)) ∨
      ((s.readV i).valid = false ∧ src s i = .error .uninitialized) := by
  cases h : (s.readV i).valid
  · exact .inr ⟨rfl, src_empty h⟩
  · exact .inl ⟨rfl, src_valid h⟩

/-- What reading the two operands of a two-operand command can answer, in the order the checks run. -/
theorem srcPair_cases (s : State) (rs1 rs2 : RegIx) :
    (((s.readV rs1).valid = false ∨ (s.readV rs2).valid = false) ∧ srcPair s rs1 rs2 = .error .uninitialized) ∨
    ((s.readV rs1).valid = true ∧ (s.readV rs2).valid = true ∧
      ¬((s.readV rs1).wc = (s.readV rs2).wc ∧ (s.readV rs1).sg = (s.readV rs2).sg) ∧
      srcPair s rs1 rs2 = .error .typeMismatch) ∨
    ((s.readV rs1).valid = true ∧ (s.readV rs2).valid = true ∧
      ((s.readV rs1).wc = (s.readV rs2).wc ∧ (s.readV rs1).sg = (s.readV rs2).sg) ∧
      srcPair s rs1 rs2 = .ok (s.readV rs1, s.readV rs2)) := by
  rcases src_cases s rs1 with ⟨h1, e1⟩ | ⟨h1, e1⟩
  · rcases src_cases s rs2 with ⟨h2, e2⟩ | ⟨h2, e2⟩
    · by_cases h : (s.readV rs1).wc = (s.readV rs2).wc ∧ (s.readV rs1).sg = (s.readV rs2).sg
      · exact .inr (.inr ⟨h1, h2, h, by simp [srcPair, e1, e2, same, h]⟩)
      · exact .inr (.inl ⟨h1, h2, h, by simp [srcPair, e1, e2, same, h]⟩)
    · exact .inl ⟨.inr h2, by simp [srcPair, e1, e2]⟩
  · exact .inl ⟨.inl h1, by simp [srcPair, e1]⟩

theorem srcPair_ok {s : State} {rs1 rs2 : RegIx} (h1 : (s.readV rs1).valid = true) (h2 : (s.readV rs2).valid = true)
    (h : (s.readV rs1).wc = (s.readV rs2).wc ∧ (s.readV rs1).sg = (s.readV rs2).sg) :
    srcPair s rs1 rs2 = .ok (s.readV rs1, s.readV rs2) := by
  simp [srcPair, src_valid h1, src_valid h2, same, h]

/-- What a two-operand command that writes V[rd] does when it runs. -/
theorem binaryToV_ok {op : Opcode} {rd rs1 rs2 : RegIx} {f : VReg → VReg → Int} {s : State}
    (h1 : (s.readV rs1).valid = true) (h2 : (s.readV rs2).valid = true)
    (h : (s.readV rs1).wc = (s.readV rs2).wc ∧ (s.readV rs1).sg = (s.readV rs2).sg) :
    binaryToV op rd rs1 rs2 f s =
      .next ((s.writeV rd (mk (s.readV rs1).wc (s.readV rs1).sg (f (s.readV rs1) (s.readV rs2)))).succeed op) := by
  simp [binaryToV, srcPair_ok h1 h2 h]

theorem binaryToV_uninitialized {op : Opcode} {rd rs1 rs2 : RegIx} {f : VReg → VReg → Int} {s : State}
    (h : (s.readV rs1).valid = false ∨ (s.readV rs2).valid = false) :
    binaryToV op rd rs1 rs2 f s = .next (s.fail op .uninitialized) := by
  rcases srcPair_cases s rs1 rs2 with ⟨_, e⟩ | ⟨h1, h2, _⟩ | ⟨h1, h2, _⟩
  · simp [binaryToV, e]
  · simp_all
  · simp_all

theorem binaryToV_typeMismatch {op : Opcode} {rd rs1 rs2 : RegIx} {f : VReg → VReg → Int} {s : State}
    (h1 : (s.readV rs1).valid = true) (h2 : (s.readV rs2).valid = true)
    (h : ¬((s.readV rs1).wc = (s.readV rs2).wc ∧ (s.readV rs1).sg = (s.readV rs2).sg)) :
    binaryToV op rd rs1 rs2 f s = .next (s.fail op .typeMismatch) := by
  rcases srcPair_cases s rs1 rs2 with ⟨h', _⟩ | ⟨_, _, _, e⟩ | ⟨_, _, h', _⟩
  · simp_all
  · simp [binaryToV, e]
  · exact absurd h' h

/-! DIVREM, by case (41_arith.md R160). -/

theorem execDivrem_sameDestinations {s : State} {rd rs1 rs2 rd2 : RegIx} (h : rd = rd2) :
    execDivrem rd rs1 rs2 rd2 s = .next (s.fail 0x0B .illegalCommand) := by
  simp [execDivrem, h, opcodeOf]

theorem execDivrem_operandError {s : State} {rd rs1 rs2 rd2 : RegIx} {e : ErrKind} (h : rd ≠ rd2)
    (he : srcPair s rs1 rs2 = .error e) : execDivrem rd rs1 rs2 rd2 s = .next (s.fail 0x0B e) := by
  simp [execDivrem, h, he, opcodeOf]

theorem execDivrem_byZero {s : State} {rd rs1 rs2 rd2 : RegIx} (hn : rd ≠ rd2) (h1 : (s.readV rs1).valid = true)
    (h2 : (s.readV rs2).valid = true)
    (h : (s.readV rs1).wc = (s.readV rs2).wc ∧ (s.readV rs1).sg = (s.readV rs2).sg) (h0 : val (s.readV rs2) = 0) :
    execDivrem rd rs1 rs2 rd2 s = .next (s.fail 0x0B .divisionByZero) := by
  simp [execDivrem, hn, srcPair_ok h1 h2 h, h0, opcodeOf]

theorem execDivrem_ok {s : State} {rd rs1 rs2 rd2 : RegIx} (hn : rd ≠ rd2) (h1 : (s.readV rs1).valid = true)
    (h2 : (s.readV rs2).valid = true)
    (h : (s.readV rs1).wc = (s.readV rs2).wc ∧ (s.readV rs1).sg = (s.readV rs2).sg) (h0 : val (s.readV rs2) ≠ 0) :
    execDivrem rd rs1 rs2 rd2 s =
      .next (((s.writeV rd (mk (s.readV rs1).wc (s.readV rs1).sg
          (quotient (s.readV rs1).sg (val (s.readV rs1)) (val (s.readV rs2))))).writeV rd2
        (mk (s.readV rs1).wc (s.readV rs1).sg (val (s.readV rs1) -
          quotient (s.readV rs1).sg (val (s.readV rs1)) (val (s.readV rs2)) * val (s.readV rs2)))).succeed 0x0B) := by
  simp [execDivrem, hn, srcPair_ok h1 h2 h, h0, opcodeOf]

/-- What a shift does, by case. -/
theorem shiftToV_ok {op : Opcode} {rd rs1 : RegIx} {f : VReg → Nat → Int} {s : State}
    (h1 : (s.readV rs1).valid = true) (h : 0 ≤ sarg s) :
    shiftToV op rd rs1 f s =
      .next ((s.writeV rd (mk (s.readV rs1).wc (s.readV rs1).sg (f (s.readV rs1) (sarg s).toNat))).succeed op) := by
  simp [shiftToV, src_valid h1, not_lt.mpr h]

theorem shiftToV_uninitialized {op : Opcode} {rd rs1 : RegIx} {f : VReg → Nat → Int} {s : State}
    (h1 : (s.readV rs1).valid = false) : shiftToV op rd rs1 f s = .next (s.fail op .uninitialized) := by
  simp [shiftToV, src_empty h1]

theorem shiftToV_negative {op : Opcode} {rd rs1 : RegIx} {f : VReg → Nat → Int} {s : State}
    (h1 : (s.readV rs1).valid = true) (h : sarg s < 0) :
    shiftToV op rd rs1 f s = .next (s.fail op .invalidShiftAmount) := by
  simp [shiftToV, src_valid h1, h]

/-- The signed reading of a 32-bit word is the two's-complement integer of the bit vector. -/
theorem sval_toNat {n : Nat} (hn : 0 < n) (x : BitVec n) : sval n x.toNat = x.toInt := by
  rw [sval, testBit_top n _ hn x.isLt, BitVec.toInt_eq_toNat_cond]
  have e : 2 ^ n = 2 * 2 ^ (n - 1) := by rw [← pow_succ', Nat.sub_add_cancel hn]
  by_cases h : 2 ^ (n - 1) ≤ x.toNat
  · have : ¬ 2 * x.toNat < 2 ^ n := by omega
    simp [h, this]
  · have : 2 * x.toNat < 2 ^ n := by omega
    simp [h, this]

theorem sarg_eq (s : State) : sarg s = s.arg.toInt := sval_toNat (by decide) s.arg

end Sys2Proof.Machine
end

