-- ==== Sys2Proof/Laws/PerInstr.lean ====
section
/-! SUPPORT. Statements made per instruction. -/

namespace Sys2Proof.Laws.EncodeOpcode

/-- The op field of a command's word is the command's opcode (30_encoding.md R91, R96). -/
def Statement (i : Instr) : Prop := opField (encode i) = opcodeOf i

theorem zero (rd : RegIx) (wc : WidthCode) (sg : Bool) : Statement (.zero rd wc sg) := by simp [Statement, encode]
theorem ldw (rd : RegIx) (wc : WidthCode) (sg : Bool) (cnt : BitVec 4) : Statement (.ldw rd wc sg cnt) := by simp [Statement, encode]
theorem stw (rs1 : RegIx) : Statement (.stw rs1) := by simp [Statement, encode]
theorem getbit (rs1 : RegIx) : Statement (.getbit rs1) := by simp [Statement, encode]
theorem iszero (rs1 : RegIx) : Statement (.iszero rs1) := by simp [Statement, encode]
theorem signbit (rs1 : RegIx) : Statement (.signbit rs1) := by simp [Statement, encode]
theorem typeof (rs1 : RegIx) : Statement (.typeof rs1) := by simp [Statement, encode]
theorem add (rd rs1 rs2 : RegIx) : Statement (.add rd rs1 rs2) := by simp [Statement, encode]
theorem sub (rd rs1 rs2 : RegIx) : Statement (.sub rd rs1 rs2) := by simp [Statement, encode]
theorem mul (rd rs1 rs2 : RegIx) : Statement (.mul rd rs1 rs2) := by simp [Statement, encode]
theorem divrem (rd rs1 rs2 rd2 : RegIx) : Statement (.divrem rd rs1 rs2 rd2) := by simp [Statement, encode]
theorem shl (rd rs1 : RegIx) : Statement (.shl rd rs1) := by simp [Statement, encode]
theorem shr (rd rs1 : RegIx) : Statement (.shr rd rs1) := by simp [Statement, encode]
theorem and (rd rs1 rs2 : RegIx) : Statement (.and rd rs1 rs2) := by simp [Statement, encode]
theorem or (rd rs1 rs2 : RegIx) : Statement (.or rd rs1 rs2) := by simp [Statement, encode]
theorem xor (rd rs1 rs2 : RegIx) : Statement (.xor rd rs1 rs2) := by simp [Statement, encode]
theorem not (rd rs1 : RegIx) : Statement (.not rd rs1) := by simp [Statement, encode]
theorem cmp (rs1 rs2 : RegIx) : Statement (.cmp rs1 rs2) := by simp [Statement, encode]
theorem widen (rd rs1 : RegIx) (wc : WidthCode) : Statement (.widen rd rs1 wc) := by simp [Statement, encode]
theorem narrow (rd rs1 : RegIx) (wc : WidthCode) : Statement (.narrow rd rs1 wc) := by simp [Statement, encode]
theorem reint (rd rs1 : RegIx) : Statement (.reint rd rs1) := by simp [Statement, encode]
theorem fromnat (rd : RegIx) (wc : WidthCode) (sg : Bool) (n : NativeWidth) : Statement (.fromnat rd wc sg n) := by simp [Statement, encode]
theorem tonat (rs1 : RegIx) (n : NativeWidth) : Statement (.tonat rs1 n) := by simp [Statement, encode]

end Sys2Proof.Laws.EncodeOpcode
end

