-- ==== Sys2Proof/Laws/Window.lean ====
section
/-! SUPPORT. What the window serves, each operation said once. -/

namespace Sys2Proof.Machine

theorem inWindow_iff (a : Access) :
    inWindow a = true ↔ Config.mwauBase ≤ a.addr ∧ a.addr < Config.mwauBase + 64 := by
  simp only [inWindow, Bool.and_eq_true, decide_eq_true_eq]; rfl

theorem serve_nil {s : State} (h : s.pending = []) : s.serve = s := by simp [State.serve, h]

theorem serve_cons {s : State} {a : Access} {rest : List Access} (h : s.pending = a :: rest) :
    s.serve = { (perform { s with pending := rest } a).1 with
      responses := (perform { s with pending := rest } a).1.responses ++ [(perform { s with pending := rest } a).2] } := by
  simp [State.serve, h]

theorem serveBusy_nil {s : State} (h : s.pending = []) : s.serveBusy = s := by simp [State.serveBusy, h]

theorem serveBusy_held {s : State} {a : Access} {rest : List Access} (h : s.pending = a :: rest)
    (ha : isStatusRead a = false) : s.serveBusy = s := by simp [State.serveBusy, h, ha]

/-- A STATUS read returns the STATUS word and changes nothing. -/
theorem perform_statusRead {a : Access} (ha : isStatusRead a = true) (s : State) :
    perform s a = (s, .data (statusWord s)) := by
  simp [isStatusRead] at ha
  simp [perform, ha.1, ha.2, readReg]

theorem serveBusy_statusRead {s : State} {a : Access} {rest : List Access} (h : s.pending = a :: rest)
    (ha : isStatusRead a = true) :
    s.serveBusy = { s with pending := rest, responses := s.responses ++ [.data (statusWord s)] } := by
  simp [State.serveBusy, h, ha, serve_cons h, perform_statusRead ha]
  rfl

/-- What serving a busy window changes: at most the accesses pending and the responses. -/
theorem serveBusy_eq (s : State) :
    s.serveBusy = { s with pending := s.serveBusy.pending, responses := s.serveBusy.responses } := by
  cases hp : s.pending with
  | nil => rw [serveBusy_nil hp]
  | cons a rest =>
    cases ha : isStatusRead a with
    | false => rw [serveBusy_held hp ha]
    | true => rw [serveBusy_statusRead hp ha]

@[simp] theorem serveBusy_inflight (s : State) : s.serveBusy.inflight = s.inflight := by rw [serveBusy_eq]
@[simp] theorem serveBusy_cmd (s : State) : s.serveBusy.cmd = s.cmd := by rw [serveBusy_eq]
@[simp] theorem serveBusy_errcode (s : State) : s.serveBusy.errcode = s.errcode := by rw [serveBusy_eq]
@[simp] theorem serveBusy_lastop (s : State) : s.serveBusy.lastop = s.lastop := by rw [serveBusy_eq]
@[simp] theorem serveBusy_data (s : State) : s.serveBusy.data = s.data := by rw [serveBusy_eq]
@[simp] theorem serveBusy_arg (s : State) : s.serveBusy.arg = s.arg := by rw [serveBusy_eq]
@[simp] theorem serveBusy_res (s : State) : s.serveBusy.res = s.res := by rw [serveBusy_eq]
@[simp] theorem serveBusy_v (s : State) : s.serveBusy.v = s.v := by rw [serveBusy_eq]
@[simp] theorem serveBusy_inputs (s : State) : s.serveBusy.inputs = s.inputs := by rw [serveBusy_eq]
@[simp] theorem serveBusy_readV (s : State) (j : RegIx) : s.serveBusy.readV j = s.readV j := by
  simp [State.readV]

/-- The register at a register's offset is that register (10_state.md R45). -/
@[simp] theorem regAt_regOffset (r : WinReg) : regAt (regOffset r) = some r := by
  cases r with
  | data k => revert k; decide
  | _ => rfl

theorem regOffset_mod (r : WinReg) : regOffset r % 4 = 0 ∧ regOffset r < 64 := by
  cases r with
  | data k => have := k.isLt; simp only [regOffset]; omega
  | _ => decide

end Sys2Proof.Machine
end

