-- ==== Sys2Proof/Laws/Program.lean ====
section
/-! SUPPORT. What the accesses of a host program (WR and RD) reach and do. -/

namespace Sys2Proof.Machine

@[simp] theorem accessTarget_hostWrite (r : WinReg) (x : Word) : accessTarget (hostWrite r x) = some r := by
  simp [accessTarget, hostWrite, regOffset_mod r]

@[simp] theorem accessTarget_hostRead (r : WinReg) : accessTarget (hostRead r) = some r := by
  simp [accessTarget, hostRead, regOffset_mod r]

@[simp] theorem inWindow_hostWrite (r : WinReg) (x : Word) : inWindow (hostWrite r x) = true := by
  have h := regOffset_mod r
  rw [inWindow_iff]; simp only [hostWrite]; omega

@[simp] theorem inWindow_hostRead (r : WinReg) : inWindow (hostRead r) = true := by
  have h := regOffset_mod r
  rw [inWindow_iff]; simp only [hostRead]; omega

theorem perform_hostWrite (s : State) (r : WinReg) (x : Word) :
    perform s (hostWrite r x) = (writeReg s r x, .done) := by
  simp [perform]; simp [hostWrite]

theorem perform_hostRead (s : State) (r : WinReg) : perform s (hostRead r) = (s, .data (readReg s r)) := by
  simp [perform]; simp [hostRead]

@[simp] theorem isStatusRead_hostWrite (r : WinReg) (x : Word) : isStatusRead (hostWrite r x) = false := by
  simp [isStatusRead]; simp [hostWrite]

@[simp] theorem isStatusRead_hostRead_status : isStatusRead (hostRead .status) = true := by
  simp [isStatusRead]; simp [hostRead]

@[simp] theorem isStatusRead_hostRead_res : isStatusRead (hostRead .res) = false := by
  simp [isStatusRead]

end Sys2Proof.Machine
end

