-- ==== Sys2Proof/Laws/Step.lean ====
section
/-! SUPPORT. What one step can do, case by case: a stop for an access outside the window, a reset cycle, and the cycle of
an idle, a waiting or a committing core. Proofs about `step` cite these and unfold none of its parts. -/

namespace Sys2Proof.Machine

theorem issue_all_inWindow_iff (s : State) :
    s.thisCycle.issue.all inWindow = true ↔ ∀ a, s.thisCycle.issue = some a → inWindow a = true := by
  cases s.thisCycle.issue <;> simp

theorem takeInput_pending_eq_nil_iff (s : State) :
    s.takeInput.pending = [] ↔ s.pending = [] ∧ s.thisCycle.issue = none := by
  cases h : s.thisCycle.issue <;> simp [h]

/-- An access outside the window stops the step, whatever the reset input (20_memory.md R61). -/
theorem step_outside {s : State} (h : s.thisCycle.issue.all inWindow = false) : step s = .fault .outsideWindow := by
  simp [step, cycleStep, h]

/-- A cycle with the reset input asserted (70 R270, R271). -/
theorem step_resetting {s : State} (h : s.thisCycle.issue.all inWindow = true) (hr : s.thisCycle.resetLine = true) :
    step s = if s.takeInput.pending = [] then .next s.takeInput.resetBlock else .refused .accessDuringReset := by
  simp only [step, cycleStep, h, hr, if_true]

/-- A cycle without reset. -/
theorem step_running {s : State} (h : s.thisCycle.issue.all inWindow = true) (hr : s.thisCycle.resetLine = false) :
    step s = coreCycle s.takeInput := by
  simp [step, cycleStep, h, hr]

/-- An idle core performs the oldest pending access. -/
theorem coreCycle_idle {s : State} (h : s.inflight = none) : coreCycle s = .next s.serve := by simp [coreCycle, h]

/-- A command with cycles left to wait comes one cycle closer to its commit. -/
theorem coreCycle_waiting {s : State} {c : Word} {k : Nat} (h : s.inflight = some { word := c, left := k + 1 }) :
    coreCycle s = .next { s.serveBusy with inflight := some { word := c, left := k } } := by simp [coreCycle, h]

/-- A command with no cycle left commits. -/
theorem coreCycle_committing {s : State} {c : Word} (h : s.inflight = some { word := c, left := 0 }) :
    coreCycle s = commitWord c s.serveBusy := by simp [coreCycle, h]

end Sys2Proof.Machine
end

