-- ==== Sys2Proof/Tests/Slice0.lean ====
section
/-! SUPPORT. Tests. Expected results come from spec/: the words are written out field by field from 30_encoding.md R91,
R96 and R97 (op, rd, rs1, rs2, rd2, wc, sg, cnt), the results are vectors of 95_test_vectors.md, named at each test. The
theorems named `witness_...` show a concrete state and operands that meet the hypotheses of the obligation named, of each
of its clauses. -/

open Sys2Proof Sys2Proof.Machine

/-- The next state of an outcome. -/
def Tests.nextOf : Host.Outcome State Fault Refusal → Option State
  | .next t => some t
  | .fault _ => none
  | .refused _ => none

/-- What a commit from `s` leaves of a field. -/
def Tests.after {α : Type} (f : State → α) (o : Host.Outcome State Fault Refusal) : Option α := (Tests.nextOf o).map f

/-- Reset with V1 and V2 written. -/
def Tests.two (a b : VReg) : State := (State.reset.writeV 1 a).writeV 2 b

/-- `s` with ARG set. -/
def Tests.arg (x : Word) (s : State) : State := { s with arg := x }

/-- Reset with DATA[0] and DATA[1] set. -/
def Tests.staged (x y : Word) : State := (State.reset.writeData 0 x).writeData 1 y

/-- Reset with one host access pending. -/
def Tests.held (a : Access) : State := { State.reset with pending := [a] }

/-- ZERO V0, uint256 in flight with `k` cycles to wait, and the accesses `p` pending. -/
def Tests.flying (k : Nat) (p : List Access) : State :=
  { State.reset with cmd := 0x040003E0, inflight := some { word := 0x040003E0, left := k }, pending := p }

open Tests

/-! ## Well-formedness and decoding -/

/-- R100(a): the one ill-formed shape is refused. -/
theorem test_wellFormed_refuses_divrem_same_destinations : (Instr.divrem 3 1 2 3).wellFormed = false := by decide

theorem test_decode_refuses :
    decode 0b001011_0011_0001_0010_0011_00000_0_0000 = .error .sameDestinations ∧
    decode 0b011100_0001_0000_0000_0000_00000_0_0011 = .error .nativeWidth ∧
    decode 0b011101_0000_0001_0000_0000_00000_0_0000 = .error .nativeWidth ∧
    decode 0b001000_0011_0001_0001_0000_00000_0_0001 = .error .reservedField ∧
    decode 0b011101_0000_0001_0000_0000_00000_1_0001 = .error .reservedField ∧
    decode 0b010011_0000_0000_0000_0000_00000_0_0000 = .error (.unassignedOpcode 0x13) ∧
    decode 0b111111_0000_0000_0000_0000_00000_0_0000 = .error (.unassignedOpcode 0x3F) := by decide

theorem test_decode_wordvector :
    decode 0b000001_0010_0000_0000_0000_00111_1_0000 = .ok (.zero 2 7 true) ∧
    decode 0b000010_0001_0000_0000_0000_00100_1_0010 = .ok (.ldw 1 4 true 2) ∧
    decode 0b000011_0000_0001_0000_0000_00000_0_0000 = .ok (.stw 1) ∧
    decode 0b000100_0000_0001_0000_0000_00000_0_0000 = .ok (.getbit 1) ∧
    decode 0b000101_0000_1111_0000_0000_00000_0_0000 = .ok (.iszero 15) ∧
    decode 0b000110_0000_0001_0000_0000_00000_0_0000 = .ok (.signbit 1) ∧
    decode 0b000111_0000_1001_0000_0000_00000_0_0000 = .ok (.typeof 9) := by decide

theorem test_decode_arith :
    decode 0b001000_0011_0001_0010_0000_00000_0_0000 = .ok (.add 3 1 2) ∧
    decode 0b001001_0011_0001_0010_0000_00000_0_0000 = .ok (.sub 3 1 2) ∧
    decode 0b001010_0011_0001_0010_0000_00000_0_0000 = .ok (.mul 3 1 2) ∧
    decode 0b001011_0011_0001_0010_0100_00000_0_0000 = .ok (.divrem 3 1 2 4) := by decide

theorem test_decode_shift_logic_compare :
    decode 0b001100_0010_0001_0000_0000_00000_0_0000 = .ok (.shl 2 1) ∧
    decode 0b001101_0010_0001_0000_0000_00000_0_0000 = .ok (.shr 2 1) ∧
    decode 0b001110_0011_0001_0010_0000_00000_0_0000 = .ok (.and 3 1 2) ∧
    decode 0b001111_0011_0001_0010_0000_00000_0_0000 = .ok (.or 3 1 2) ∧
    decode 0b010000_0011_0001_0010_0000_00000_0_0000 = .ok (.xor 3 1 2) ∧
    decode 0b010001_0011_0001_0000_0000_00000_0_0000 = .ok (.not 3 1) ∧
    decode 0b010010_0000_0001_0010_0000_00000_0_0000 = .ok (.cmp 1 2) := by decide

theorem test_decode_conversion :
    decode 0b011000_0010_0001_0000_0000_11111_0_0000 = .ok (.widen 2 1 31) ∧
    decode 0b011001_0010_0001_0000_0000_00100_0_0000 = .ok (.narrow 2 1 4) ∧
    decode 0b011010_0010_0001_0000_0000_00000_0_0000 = .ok (.reint 2 1) ∧
    decode 0b011100_0001_0000_0000_0000_11111_1_0010 = .ok (.fromnat 1 31 true .n64) ∧
    decode 0b011101_0000_0001_0000_0000_00000_0_0001 = .ok (.tonat 1 .n32) := by decide

theorem test_decodeTableWord :
    decodeTableWord 32 0x20C48000 = some (.add 3 1 2) ∧ decodeTableWord 32 0x20C44001 = none := by decide

/-! ## Commands -/

/-- E10, width 72 signed: three words of 0. -/
theorem test_zero : after (fun t => (t.readV 0).wd[2]) (exec (.zero 0 8 true) State.reset) = some 0 ∧
    after (fun t => (t.readV 0).valid) (exec (.zero 0 8 true) State.reset) = some true := by decide

/-- W3: the padding is filled from bit 39. -/
theorem test_ldw_pads : after (fun t => ((t.readV 1).wd[0], (t.readV 1).wd[1])) (exec (.ldw 1 4 true 2) (staged 0 0x80)) =
    some (0, 0xFFFFFF80) := by decide

/-- W5: a wrong word count. -/
theorem test_ldw_count : after (fun t => (t.errcode, (t.readV 1).valid)) (exec (.ldw 1 4 false 1) (staged 0x12345678 0)) =
    some (3, false) := by decide

/-- W10: padding and zeros above the value are stored. -/
theorem test_stw : after (fun t => (t.data[0], t.data[1], t.data[2])) (exec (.stw 1) ((two (mk 4 true (-2)) VReg.empty).writeData 2 9)) =
    some (0xFFFFFFFE, 0xFFFFFFFF, 0) := by decide

/-- W16, W17: bit 39 of an int40 is in range, bit 40 is not. -/
theorem test_getbit : after (fun t => t.res) (exec (.getbit 1) (arg 0x27 (two (mk 4 true (-1)) VReg.empty))) = some 1 ∧
    after (fun t => t.errcode) (exec (.getbit 1) (arg 0x28 (two (mk 4 true (-1)) VReg.empty))) = some 5 := by decide

/-- W18. -/
theorem test_iszero : after (fun t => t.res) (exec (.iszero 1) (two (mk 0 true (-128)) VReg.empty)) = some 0 := by decide

/-- W20, W21: the top bit of an unsigned value is no sign. -/
theorem test_signbit : after (fun t => t.res) (exec (.signbit 1) (two (mk 4 true (-1)) (mk 31 false (-1)))) = some 1 ∧
    after (fun t => t.res) (exec (.signbit 2) (two (mk 4 true (-1)) (mk 31 false (-1)))) = some 0 := by decide

/-- W23, W25. -/
theorem test_typeof : after (fun t => t.res) (exec (.typeof 9) { State.reset with res := 7 }) = some 0 ∧
    after (fun t => t.res) (exec (.typeof 1) (two (mk 0 true 0) VReg.empty)) = some 0x80010208 := by decide

/-- E7: the wraparound of int8, in canonical form. -/
theorem test_add_wraps : after (fun t => (t.readV 0).wd[0]) (exec (.add 0 1 2) (two (mk 0 true 127) (mk 0 true 1))) =
    some 0xFFFFFF80 := by decide

/-- A6: same width, other signedness. -/
theorem test_add_typeMismatch : after (fun t => (t.errcode, (t.readV 3).valid))
    (exec (.add 3 1 2) (two (mk 0 true 1) (mk 0 false 1))) = some (1, false) := by decide

/-- A9: the borrow crosses two words. -/
theorem test_sub : after (fun t => ((t.readV 3).wd[0], (t.readV 3).wd[1], (t.readV 3).wd[2]))
    (exec (.sub 3 1 2) (two (mk 11 false 0x10000000000000000) (mk 11 false 1))) = some (0xFFFFFFFF, 0xFFFFFFFF, 0) := by
  decide

/-- A14. -/
theorem test_mul : after (fun t => ((t.readV 3).wd[0], (t.readV 3).wd[1]))
    (exec (.mul 3 1 2) (two (mk 7 false 0xFFFFFFFF) (mk 7 false 0xFFFFFFFF))) = some (1, 0xFFFFFFFE) := by decide

/-- A30: sources that are also the destinations; truncation toward zero. -/
theorem test_divrem_in_place : after (fun t => ((t.readV 1).wd[0], (t.readV 2).wd[0]))
    (exec (.divrem 1 1 2 2) (two (mk 3 true (-100)) (mk 3 true 7))) = some (0xFFFFFFF2, 0xFFFFFFFE) := by decide

/-- A24, A27: the overflow case wraps; the type check comes before the zero check. -/
theorem test_divrem_corners : after (fun t => ((t.readV 3).wd[0], (t.readV 4).wd[0], t.errcode))
      (exec (.divrem 3 1 2 4) (two (mk 0 true (-128)) (mk 0 true (-1)))) = some (0xFFFFFF80, 0, 0) ∧
    after (fun t => t.errcode) (exec (.divrem 3 1 2 4) (two (mk 0 true 5) (mk 0 false 0))) = some 1 := by decide

/-- S8, S4. -/
theorem test_shl : after (fun t => (t.readV 2).wd[1]) (exec (.shl 2 1) (arg 0x27 (two (mk 4 true 1) VReg.empty))) =
      some 0xFFFFFF80 ∧
    after (fun t => (t.readV 2).wd[0]) (exec (.shl 2 1) (arg 0x7FFFFFFF (two (mk 0 true (-1)) VReg.empty))) = some 0 := by
  decide

/-- S15, S10: arithmetic for a signed value, logical for an unsigned one. -/
theorem test_shr : after (fun t => (t.readV 2).wd[0]) (exec (.shr 2 1) (arg 1 (two (mk 0 true (-3)) VReg.empty))) =
      some 0xFFFFFFFE ∧
    after (fun t => (t.readV 2).wd[0]) (exec (.shr 2 1) (arg 7 (two (mk 0 false 128) VReg.empty))) = some 1 := by decide

/-- S21. -/
theorem test_and : after (fun t => (t.readV 3).wd[0]) (exec (.and 3 1 2) (two (mk 0 true (-1)) (mk 0 true 15))) =
    some 0x0F := by decide

/-- S22. -/
theorem test_or : after (fun t => ((t.readV 3).wd[0], (t.readV 3).wd[1]))
    (exec (.or 3 1 2) (two (mk 4 true (-0x8000000000)) (mk 4 true 1))) = some (1, 0xFFFFFF80) := by decide

/-- S23. -/
theorem test_xor : after (fun t => (t.readV 3).wd[0]) (exec (.xor 3 1 2) (two (mk 0 true (-1)) (mk 0 true 1))) =
    some 0xFFFFFFFE := by decide

/-- S27, S28: the padding is rebuilt, not inverted. -/
theorem test_not : after (fun t => (t.readV 3).wd[1]) (exec (.not 3 1) (two (mk 4 false 0) (mk 4 true 0))) =
      some 0x000000FF ∧
    after (fun t => (t.readV 3).wd[1]) (exec (.not 3 2) (two (mk 4 false 0) (mk 4 true 0))) = some 0xFFFFFFFF := by decide

/-- S1, S29: sign-aware. -/
theorem test_cmp : after (fun t => t.res) (exec (.cmp 1 2) (two (mk 0 true (-1)) (mk 0 true 1))) = some 1 ∧
    after (fun t => t.res) (exec (.cmp 1 2) (two (mk 0 false 128) (mk 0 false 127))) = some 2 := by decide

/-- CV1, CV2. -/
theorem test_widen : after (fun t => (t.readV 2).wd[1]) (exec (.widen 2 1 4) (two (mk 2 true (-1)) VReg.empty)) =
      some 0xFFFFFFFF ∧
    after (fun t => (t.readV 2).wd[0]) (exec (.widen 2 1 4) (two (mk 2 false 0xFFFFFF) VReg.empty)) = some 0x00FFFFFF := by
  decide

/-- CV8, CV11. -/
theorem test_narrow : after (fun t => (t.readV 2).wd[0]) (exec (.narrow 2 1 0) (two (mk 1 true (-129)) VReg.empty)) =
      some 0x7F ∧
    after (fun t => t.errcode) (exec (.narrow 2 1 1) (two (mk 0 false 5) VReg.empty)) = some 3 := by decide

/-- CV15: the padding follows the new signedness. -/
theorem test_reint : after (fun t => ((t.readV 2).wd[1], (t.readV 2).sg)) (exec (.reint 2 1) (two (mk 4 true (-1)) VReg.empty)) =
    some (0x000000FF, false) := by decide

/-- CV20, CV22. -/
theorem test_fromnat : after (fun t => ((t.readV 1).wd[1], (t.readV 1).wd[7]))
      (exec (.fromnat 1 31 true .n64) (staged 0 0x80000000)) = some (0x80000000, 0xFFFFFFFF) ∧
    after (fun t => t.errcode) (exec (.fromnat 1 1 true .n32) (staged 0x8000 0)) = some 7 := by decide

/-- CV29, CV30: only DATA[0] is written; 2^31 is no int32. -/
theorem test_tonat : after (fun t => (t.data[0], t.data[1])) (exec (.tonat 1 .n32) ((two (mk 31 true (-1)) VReg.empty).writeData 1 9)) =
      some (0xFFFFFFFF, 9) ∧
    after (fun t => t.errcode) (exec (.tonat 1 .n32) (two (mk 4 true 0x80000000) VReg.empty)) = some 7 := by decide

/-! ## Step, STATUS and assembler text -/

/-- A command placed by `withFetchWord` runs in the very next step (W1), and STATUS is as the vectors' rule says. -/
theorem test_step_runs_placed_command :
    after (fun t => ((t.readV 0).wc, busy t, statusWord t)) (step (State.reset.withFetchWord 32 0x040003E0)) =
      some (31, false, 0x00000100) := by decide

/-- X4: an illegal word completes with IllegalCommand before an operand is read. -/
theorem test_step_illegal_word : after statusWord (step (State.reset.withFetchWord 32 0x20C44001)) = some 0x00000892 := by
  decide

/-- The lines of programs P1 and P2, and R102. -/
theorem test_asmText :
    asmText (.ldw 1 11 false 3) = "LDW V1, uint96, 3" ∧ asmText (.divrem 3 1 2 4) = "DIVREM V3, V4, V1, V2" ∧
    asmText (.fromnat 1 3 true .n64) = "FROMNAT V1, int32, 64" ∧ asmText (.widen 2 1 31) = "WIDEN V2, V1, 256" := by decide

/-! ## Witnesses: encoding and step -/

theorem witness_DecodeOfEncodeIsIdentity : (Instr.divrem 3 1 2 4).wellFormed = true := by decide

theorem witness_EncodeOfDecodeIsIdentity : decode 0x2CC49000 = .ok (.divrem 3 1 2 4) := by decide

theorem witness_LegalWordsAreTheTableRows :
    decode 0x70400001 = .ok (.fromnat 1 0 false .n32) ∧ SelectsRow 0x70400001 (rowOf (.fromnat 1 0 false .n32)) ∧
    SelectsRow 0x70400001 (rowOf (.fromnat 0 0 false .n64)) := by unfold SelectsRow; decide

theorem witness_ReservedFieldIsIllegal :
    WillCommit (State.reset.presentCommand 0x20C44001) 0x20C44001 ∧ opField 0x20C44001 = opcodeOf (.add 3 1 1) ∧
    ¬SelectsRow 0x20C44001 (rowOf (.add 3 1 1)) := by unfold WillCommit SelectsRow; decide

theorem witness_UnassignedOpcodeIsIllegal :
    WillCommit (State.reset.presentCommand 0x4C000000) 0x4C000000 ∧ (∀ i, opcodeOf i ≠ opField 0x4C000000) ∧
    (∀ i, opcodeOf i ≠ opField 0) ∧ (∀ i, opcodeOf i ≠ 0x17) ∧ (∀ i, opcodeOf i ≠ 0x1B) ∧ (∀ i, opcodeOf i ≠ 0x1E) := by
  refine ⟨by unfold WillCommit; decide, ?_, ?_, ?_, ?_, ?_⟩ <;> intro i <;> cases i <;> simp [opcodeOf, opField]

theorem witness_PerCommandLegality :
    WillCommit (State.reset.presentCommand 0x2CC48C00) 0x2CC48C00 ∧
    (opField 0x2CC48C00 = 0x0B ∧ rdField 0x2CC48C00 = rd2Field 0x2CC48C00) ∧
    WillCommit (State.reset.presentCommand 0x70400003) 0x70400003 ∧
    (opField 0x70400003 = 0x1C ∧ cntField 0x70400003 ≠ 1 ∧ cntField 0x70400003 ≠ 2) ∧
    WillCommit (State.reset.presentCommand 0x74040000) 0x74040000 ∧
    (opField 0x74040000 = 0x1D ∧ cntField 0x74040000 ≠ 1 ∧ cntField 0x74040000 ≠ 2) ∧
    (0 : BitVec 4).toNat ≠ (widthOf 0 + 31) / 32 ∧ (9 : BitVec 4).toNat ≠ (widthOf 31 + 31) / 32 := by
  unfold WillCommit; decide

theorem witness_StepRunsDecodedCommand :
    (∀ p, WillCommit (flying 0 p) 0x040003E0) ∧ decode 0x040003E0 = .ok (.zero 0 31 false) ∧
    (flying 0 [hostRead .status]).pending ++ (flying 0 [hostRead .status]).thisCycle.issue.toList =
      hostRead .status :: [] ∧ isStatusRead (hostRead .status) = true ∧
    (flying 0 [hostRead .res]).pending ++ (flying 0 [hostRead .res]).thisCycle.issue.toList = hostRead .res :: [] ∧
    isStatusRead (hostRead .res) = false ∧
    (flying 0 []).pending ++ (flying 0 []).thisCycle.issue.toList = [] := by
  refine ⟨fun p => ⟨rfl, rfl, rfl⟩, by decide, rfl, ?_, rfl, ?_, rfl⟩
  · exact isStatusRead_hostRead_status
  · exact isStatusRead_hostRead_res

theorem witness_CommandSucceedsOrFailsPrecisely :
    (Instr.add 3 1 2).wellFormed = true ∧
    (∃ t, exec (.add 3 1 2) (two (mk 0 true 127) (mk 0 true 1)) = .next t) ∧ ∃ t, exec (.add 3 1 2) State.reset = .next t :=
  ⟨rfl, ⟨_, rfl⟩, ⟨_, rfl⟩⟩

/-! ## Witnesses: commands -/

theorem witness_LdwFollowsRule :
    (2 : BitVec 4).toNat ≠ (widthOf 0 + 31) / 32 ∧ (1 : BitVec 4).toNat = (widthOf 3 + 31) / 32 ∧
    (2 : BitVec 4).toNat = (widthOf 4 + 31) / 32 ∧ (8 : BitVec 4).toNat = (widthOf 31 + 31) / 32 := by decide

/-- For every command that reads V1 alone: V1 empty; V1 with a value. -/
theorem witness_one_operand :
    ((State.reset).readV 1).valid = false ∧ ((two (mk 4 true (-2)) VReg.empty).readV 1).valid = true := by decide

theorem witness_StwFollowsRule :
    ((two (mk 4 true (-2)) VReg.empty).readV 1).valid = true ∧
    ((two (mk 4 true (-2)) VReg.empty).readV 1) = mk 4 true (-2) ∧ Canonical (mk 4 true (-2)) ∧
    (widthOf 4 + 31) / 32 ≤ (2 : Fin 8).val := by
  refine ⟨by decide, by decide, fun _ => by simp [mk_val_mk], by decide⟩

theorem witness_GetbitFollowsRule :
    let s := two (mk 4 true (-1)) VReg.empty
    (s.readV 1).valid = true ∧ widthOf (s.readV 1).wc = 40 ∧ (arg 0xFFFFFFFF s).arg.toInt < 0 ∧
    (arg 40 s).arg.toInt ≥ widthOf (s.readV 1).wc ∧ 0 ≤ (arg 0 s).arg.toInt ∧
    (arg 39 s).arg.toInt < widthOf (s.readV 1).wc := by decide

theorem witness_IszeroFollowsRule :
    ((two (mk 31 false 0) VReg.empty).readV 1).valid = true ∧
    (two (mk 31 false 0) VReg.empty).readV 1 = mk 31 false 0 ∧ Canonical (mk 31 false 0) := by
  refine ⟨by decide, by decide, fun _ => by simp [mk_val_mk]⟩

theorem witness_SignbitFollowsRule :
    ((two (mk 4 true (-1)) (mk 31 false (-1))).readV 1).valid = true ∧
    ((two (mk 4 true (-1)) (mk 31 false (-1))).readV 1).sg = true ∧
    ((two (mk 4 true (-1)) (mk 31 false (-1))).readV 2).valid = true ∧
    ((two (mk 4 true (-1)) (mk 31 false (-1))).readV 2).sg = false := by decide

/-- For ADD, SUB, MUL, CMP, the bitwise commands, and the datapaths: an empty operand on either side; two operands of
different width, or of different signedness; two of one type. -/
theorem witness_two_operands :
    ((two VReg.empty (mk 0 true 1)).readV 1).valid = false ∧ ((two (mk 0 true 1) VReg.empty).readV 2).valid = false ∧
    ((two (mk 0 true 1) (mk 1 true 1)).readV 1).valid = true ∧ ((two (mk 0 true 1) (mk 1 true 1)).readV 2).valid = true ∧
    ¬SameType ((two (mk 0 true 1) (mk 1 true 1)).readV 1) ((two (mk 0 true 1) (mk 1 true 1)).readV 2) ∧
    ¬SameType ((two (mk 0 true 1) (mk 0 false 1)).readV 1) ((two (mk 0 true 1) (mk 0 false 1)).readV 2) ∧
    SameType ((two (mk 0 true 127) (mk 0 true 1)).readV 1) ((two (mk 0 true 127) (mk 0 true 1)).readV 2) ∧
    ((two (mk 0 true 127) (mk 0 true 1)).readV 1).valid = true ∧
    ((two (mk 0 true 127) (mk 0 true 1)).readV 2).valid = true := by unfold SameType; decide

/-- The operands are those of `witness_two_operands`; the three commands and their functions. -/
theorem witness_BitwiseFollowsRules :
    let f : Bool → Bool → Bool := fun x y => x ^^ y
    let row : Word := 0x40000000
    (Instr.xor 3 1 2 = .and 3 1 2 ∧ f = (fun x y => x && y) ∧ row = 0x38000000) ∨
      (Instr.xor 3 1 2 = .or 3 1 2 ∧ f = (fun x y => x || y) ∧ row = 0x3C000000) ∨
      (Instr.xor 3 1 2 = .xor 3 1 2 ∧ f = (fun x y => x ^^ y) ∧ row = 0x40000000) := .inr (.inr ⟨rfl, rfl, rfl⟩)

/-- Of DIVREM, its quotient and remainder, and its datapath: a divisor of 0; a divisor that is not 0, unsigned and
signed. -/
theorem witness_DivremFollowsRule :
    (3 : RegIx) ≠ 4 ∧ ((two (mk 7 false 5) (mk 7 false 0)).readV 1).valid = true ∧
    ((two (mk 7 false 5) (mk 7 false 0)).readV 2).valid = true ∧
    SameType ((two (mk 7 false 5) (mk 7 false 0)).readV 1) ((two (mk 7 false 5) (mk 7 false 0)).readV 2) ∧
    val ((two (mk 7 false 5) (mk 7 false 0)).readV 2) = 0 ∧
    SameType ((two (mk 7 false 5) (mk 7 false 2)).readV 1) ((two (mk 7 false 5) (mk 7 false 2)).readV 2) ∧
    val ((two (mk 7 false 5) (mk 7 false 2)).readV 2) ≠ 0 ∧ ((two (mk 7 false 5) (mk 7 false 2)).readV 1).sg = false ∧
    SameType ((two (mk 0 true 7) (mk 0 true (-2))).readV 1) ((two (mk 0 true 7) (mk 0 true (-2))).readV 2) ∧
    val ((two (mk 0 true 7) (mk 0 true (-2))).readV 2) ≠ 0 ∧ ((two (mk 0 true 7) (mk 0 true (-2))).readV 1).sg = true := by
  unfold SameType; decide

theorem witness_DivremQuotientAndRemainder :
    let s := two (mk 0 true 7) (mk 0 true (-2))
    (3 : RegIx) ≠ 4 ∧ (s.readV 1).valid = true ∧ (s.readV 2).valid = true ∧ SameType (s.readV 1) (s.readV 2) ∧
    val (s.readV 2) ≠ 0 ∧
    ¬((s.readV 1).sg = true ∧ val (s.readV 1) = -2 ^ (widthOf (s.readV 1).wc - 1) ∧ val (s.readV 2) = -1) := by
  unfold SameType; decide

theorem witness_SignedDivisionOverflowWraps :
    let s := two (mk 0 true (-128)) (mk 0 true (-1))
    (3 : RegIx) ≠ 4 ∧ (s.readV 1).valid = true ∧ (s.readV 2).valid = true ∧ SameType (s.readV 1) (s.readV 2) ∧
    (s.readV 1).sg = true ∧ val (s.readV 1) = -2 ^ (widthOf (s.readV 1).wc - 1) ∧ val (s.readV 2) = -1 := by
  unfold SameType; decide

/-- Of SHL and SHR: the most negative amount and -1; 0 and the largest amount; an amount of the width. -/
theorem witness_ShlFollowsRule_ShrFollowsRule :
    let s := two (mk 0 true (-3)) VReg.empty
    (s.readV 1).valid = true ∧ (arg 0x80000000 s).arg.toInt < 0 ∧ (arg 0xFFFFFFFF s).arg.toInt < 0 ∧
    0 ≤ (arg 0 s).arg.toInt ∧ 0 ≤ (arg 0x7FFFFFFF s).arg.toInt ∧ widthOf (s.readV 1).wc ≤ (arg 8 s).arg.toNat := by decide

theorem witness_NotFollowsRule :
    ((two (mk 4 true 0) VReg.empty).readV 1).valid = true ∧ ((two (mk 4 true 0) VReg.empty).readV 1).sg = true ∧
    39 < widthOf ((two (mk 4 true 0) VReg.empty).readV 1).wc := by decide

/-- Of WIDEN and NARROW: a smaller, an equal and a larger target width. -/
theorem witness_WidenFollowsRule_NarrowFollowsRule :
    let s := two (mk 4 true (-2)) VReg.empty
    (s.readV 1).valid = true ∧ widthOf 3 < widthOf (s.readV 1).wc ∧ widthOf (s.readV 1).wc ≤ widthOf 4 ∧
    widthOf 4 ≤ widthOf (s.readV 1).wc ∧ widthOf (s.readV 1).wc < widthOf 5 := by decide

theorem witness_ReintCornerCases :
    ((two (mk 4 true (-2)) VReg.empty).readV 1).valid = true ∧ Canonical ((two (mk 4 true (-2)) VReg.empty).readV 1) := by
  unfold Canonical; decide

/-- Of FROMNAT: the largest value that fits and the next one, signed and unsigned. -/
theorem witness_FromnatFollowsRule :
    ((127 : Int) = (staged 127 0).data[0].toInt ∧ -2 ^ (widthOf 0 - 1) ≤ (127 : Int) ∧ (127 : Int) ≤ 2 ^ (widthOf 0 - 1) - 1) ∧
    ((128 : Int) = (staged 128 0).data[0].toInt ∧
      ¬(-2 ^ (widthOf 0 - 1) ≤ (128 : Int) ∧ (128 : Int) ≤ 2 ^ (widthOf 0 - 1) - 1)) ∧
    ((255 : Int) = ((staged 255 0).data[1] ++ (staged 255 0).data[0]).toNat ∧ 0 ≤ (255 : Int) ∧
      (255 : Int) ≤ 2 ^ widthOf 0 - 1) ∧
    ((256 : Int) = ((staged 256 0).data[1] ++ (staged 256 0).data[0]).toNat ∧
      ¬(0 ≤ (256 : Int) ∧ (256 : Int) ≤ 2 ^ widthOf 0 - 1)) := by decide

/-- Of TONAT: the largest value that fits and the next one. -/
theorem witness_TonatFollowsRule :
    let fits := two (mk 4 true 0x7FFFFFFF) VReg.empty
    let tooBig := two (mk 4 true 0x80000000) VReg.empty
    (fits.readV 1).valid = true ∧ (fits.readV 1).sg = true ∧ val (fits.readV 1) = 0x7FFFFFFF ∧
    (-2 ^ (32 - 1) ≤ val (fits.readV 1) ∧ val (fits.readV 1) ≤ 2 ^ (32 - 1) - 1) ∧ (tooBig.readV 1).valid = true ∧
    (tooBig.readV 1).sg = true ∧ ¬(-2 ^ (32 - 1) ≤ val (tooBig.readV 1) ∧ val (tooBig.readV 1) ≤ 2 ^ (32 - 1) - 1) := by decide

/-! ## Witnesses: sequences of commands -/

/-- Of StwLdwRoundTrip and ShifterDatapathsAgree: a canonical value, and an amount below its width. -/
theorem witness_StwLdwRoundTrip :
    ((two (mk 4 true (-2)) VReg.empty).readV 1).valid = true ∧ Canonical ((two (mk 4 true (-2)) VReg.empty).readV 1) ∧
    (arg 39 (two (mk 4 true (-2)) VReg.empty)).arg.toNat < widthOf ((two (mk 4 true (-2)) VReg.empty).readV 1).wc := by
  unfold Canonical; decide

theorem witness_AddLaws :
    let s := (two (mk 0 true 127) (mk 0 true 1)).writeV 3 (mk 0 true 0)
    (s.readV 1).valid = true ∧ (s.readV 2).valid = true ∧ (s.readV 3).valid = true ∧ SameType (s.readV 1) (s.readV 2) ∧
    SameType (s.readV 1) (s.readV 3) ∧ (4 : RegIx) ≠ 3 ∧ (5 : RegIx) ≠ 1 ∧ Canonical (s.readV 1) ∧ val (s.readV 3) = 0 := by
  unfold SameType Canonical; decide

/-- The overflow case of E5. -/
theorem witness_DivisionIdentity :
    let s := two (mk 1 true (-32768)) (mk 1 true (-1))
    (s.readV 1).valid = true ∧ (s.readV 2).valid = true ∧ SameType (s.readV 1) (s.readV 2) ∧ Canonical (s.readV 1) ∧
    val (s.readV 2) ≠ 0 ∧ (3 : RegIx) ≠ 4 ∧ (2 : RegIx) ≠ 3 ∧ (2 : RegIx) ≠ 4 ∧ (5 : RegIx) ≠ 4 := by
  unfold SameType Canonical; decide

theorem witness_NarrowOfWidenIsIdentity :
    let s := two (mk 0 true (-1)) VReg.empty
    (s.readV 1).valid = true ∧ Canonical (s.readV 1) ∧ widthOf (s.readV 1).wc ≤ widthOf 0 ∧
    widthOf (s.readV 1).wc ≤ widthOf 31 := by unfold Canonical; decide

theorem witness_PseudoInstructionsDoWhatTheySay :
    let s := two (mk 0 true (-1)) VReg.empty
    s.inflight = none ∧ (s.readV 1).valid = true ∧ Canonical (s.readV 1) ∧ (2 : RegIx) ≠ 1 ∧
    -2 ^ (widthOf 0 - 1) ≤ (BitVec.ofInt 64 (-128)).toInt ∧ (BitVec.ofInt 64 127).toInt ≤ 2 ^ (widthOf 0 - 1) - 1 ∧
    (BitVec.ofNat 64 255).toNat < 2 ^ widthOf 0 := by unfold Canonical; decide

/-- Of CompareDatapathAgrees: two canonical values of one type. -/
theorem witness_CompareDatapathAgrees :
    let s := two (mk 0 true (-1)) (mk 0 true 1)
    (s.readV 1).valid = true ∧ (s.readV 2).valid = true ∧ SameType (s.readV 1) (s.readV 2) ∧ Canonical (s.readV 1) ∧
    Canonical (s.readV 2) := by unfold SameType Canonical; decide

/-! ## Witnesses: reset, the invariant, the window -/

theorem witness_EveryStepKeepsInv :
    Inv (flying 0 []) ∧ ∃ t, step (flying 0 []) = .next t := by
  refine ⟨⟨fun i => ?_, .inl rfl, fun f h => ?_, fun h => ?_⟩, ⟨_, rfl⟩⟩
  · intro h
    have e : (flying 0 []).readV i = VReg.empty := by simp [flying, State.readV, State.reset]
    rw [e] at h; cases h
  · cases h; rfl
  · cases h

/-- A cycle with the reset input asserted, and a 1 in bit 0 of CTRL. -/
theorem witness_ResetSetsTheResetTable_HardwareResetAbandonsCommand :
    let s := { flying 3 [] with inputs := [{ resetLine := true, issue := none }] }
    s.thisCycle.resetLine = true ∧ s.thisCycle.issue = none ∧ s.pending = [] ∧ (∃ t, step s = .next t) ∧
    (1 : Word).getLsbD 0 = true := ⟨rfl, rfl, rfl, ⟨_, rfl⟩, rfl⟩

/-- An access outside the window stops the step with the reset input asserted too (log entry 8), where an access in the
window is refused (70 R271). -/
theorem test_stops_during_reset :
    let outside : Access := { addr := Config.mwauBase + 64, bits := 32, op := .read }
    let resetting (a : Access) : State := { State.reset with inputs := [{ resetLine := true, issue := some a }] }
    step (resetting outside) = .fault .outsideWindow ∧ step (resetting (hostRead .id)) = .refused .accessDuringReset := by
  constructor
  · apply step_outside
    show inWindow _ = false
    rw [Bool.eq_false_iff, Ne, inWindow_iff]; dsimp only; omega
  · refine (step_resetting ?_ rfl).trans rfl
    exact inWindow_hostRead .id

/-- Each stop is reached, the window's edges included. -/
theorem witness_StepStopsOnlyForMisplacedAccesses :
    ({ State.reset with inputs := [{ resetLine := true, issue := some (hostRead .id) }] } : State).thisCycle.resetLine =
      true ∧
    inWindow { addr := Config.mwauBase + 63, bits := 32, op := .read } = true ∧
    inWindow { addr := Config.mwauBase + 64, bits := 32, op := .read } = false ∧
    State.reset.thisCycle.resetLine = false ∧ State.reset.thisCycle.issue = none := by
  refine ⟨rfl, ?_, ?_, rfl, rfl⟩
  · rw [inWindow_iff]; constructor <;> dsimp only <;> omega
  · rw [Bool.eq_false_iff, Ne, inWindow_iff]; dsimp only; omega

theorem witness_SoftResetThroughCtrl :
    (1 : Word).getLsbD 0 = true ∧ (0 : Word).getLsbD 0 = false ∧ busy (flying 1 [hostWrite .ctrl 1]) = true ∧
    (flying 1 [hostWrite .ctrl 1]).thisCycle.resetLine = false ∧
    (flying 1 [hostWrite .ctrl 1]).pending = hostWrite .ctrl 1 :: [] ∧
    ∃ t, step (flying 1 [hostWrite .ctrl 1]) = .next t := ⟨rfl, rfl, rfl, rfl, rfl, ⟨_, rfl⟩⟩

/-- One access of each kind that R65 fails, and the highest one it does not. -/
theorem witness_BusErrorsChangeNothing :
    let a : Access := { addr := Config.mwauBase + 0x18, bits := 32, op := .read }
    inWindow a = true ∧ a.addr = Config.mwauBase + 0x18 ∧ (held a).inflight = none ∧
    (held a).thisCycle.resetLine = false ∧ (held a).thisCycle.issue = none ∧ (held a).pending = a :: [] ∧
    inWindow { addr := Config.mwauBase + 0x1C, bits := 32, op := .write 0 } = true ∧
    inWindow { addr := Config.mwauBase, bits := 8, op := .read } = true ∧
    (inWindow { addr := Config.mwauBase + 2, bits := 32, op := .read } = true ∧
      (Config.mwauBase + 2 - Config.mwauBase) % 4 ≠ 0) ∧
    inWindow { addr := Config.mwauBase + 0x3C, bits := 32, op := .read } = true := by
  refine ⟨?_, rfl, rfl, rfl, rfl, rfl, ?_, ?_, ⟨?_, ?_⟩, ?_⟩
  all_goals first
    | (rw [inWindow_iff]; constructor <;> dsimp only <;> omega)
    | omega

theorem witness_ReadsReturnTheRegisters :
    ({ addr := Config.mwauBase + 0x3C, bits := 32, op := .read } : Access) =
      { addr := Config.mwauBase + 0x3C, bits := 32, op := .read } ∧ regAt 0x3C = some (.data 7) := ⟨rfl, rfl⟩

theorem witness_ReadOnlyWritesAreIgnored :
    let s := flying 1 [hostWrite .res 5]
    busy s = true ∧ s.thisCycle.resetLine = false ∧ s.pending = hostWrite .res 5 :: [] ∧ ∃ t, step s = .next t :=
  ⟨rfl, rfl, rfl, ⟨_, rfl⟩⟩

theorem witness_CmdWriteAcceptsCommand :
    let s := held (hostWrite .cmd 0x040003E0)
    s.inflight = none ∧ s.thisCycle.resetLine = false ∧ s.thisCycle.issue = none ∧
    s.pending = hostWrite .cmd 0x040003E0 :: [] := ⟨rfl, rfl, rfl, rfl⟩

/-- A command with cycles left, an access pending and another one issued, in the window; and one with neither. -/
theorem witness_StallHoldsAllButStatusReads_waiting :
    let s := { flying 1 [hostRead .res] with inputs := [{ resetLine := false, issue := some (hostWrite .arg 7) }] }
    s.inflight = some { word := 0x040003E0, left := 0 + 1 } ∧ s.thisCycle.resetLine = false ∧
    (∀ a, s.thisCycle.issue = some a → inWindow a = true) ∧ s.inputs ≠ [] ∧
    (flying 1 []).inflight = some { word := 0x040003E0, left := 0 + 1 } ∧
    (flying 1 []).pending ++ (flying 1 []).thisCycle.issue.toList = [] := by
  refine ⟨rfl, rfl, fun a h => ?_, by simp, rfl, rfl⟩
  cases h
  exact inWindow_hostWrite _ _

/-- A STATUS read, and another access, pending while a command is in flight; with cycles left, and in the last one. -/
theorem witness_StallHoldsAllButStatusReads :
    busy (flying 1 [hostRead .status]) = true ∧ isStatusRead (hostRead .status) = true ∧
    busy (flying 0 [hostRead .res]) = true ∧ isStatusRead (hostRead .res) = false ∧
    (∃ t, step (flying 1 [hostRead .status]) = .next t) ∧ ∃ t, step (flying 0 [hostRead .res]) = .next t := by
  refine ⟨rfl, isStatusRead_hostRead_status, rfl, isStatusRead_hostRead_res, ⟨_, rfl⟩, ?_⟩
  have h : (flying 0 [hostRead .res]).takeInput.serveBusy = flying 0 [hostRead .res] :=
    serveBusy_held (a := hostRead .res) (rest := []) rfl isStatusRead_hostRead_res
  have e : step (flying 0 [hostRead .res]) = commitWord 0x040003E0 (flying 0 [hostRead .res]) := by
    show commitWord 0x040003E0 (flying 0 [hostRead .res]).takeInput.serveBusy = _
    rw [h]
  exact ⟨_, e.trans rfl⟩

theorem witness_CommandCommitsAfterItsLatency :
    (flying 3 []).inflight = some { word := 0x040003E0, left := 3 } ∧ (flying 3 []).inputs = [] ∧
    (flying 3 []).pending = [] ∧
    ({ State.reset with inputs := hostProgram [hostWrite .cmd 0x040003E0] } : State).inflight = none ∧
    ({ State.reset with inputs := hostProgram [hostWrite .cmd 0x040003E0] } : State).pending = [] := ⟨rfl, rfl, rfl, rfl, rfl⟩

theorem witness_HostProgramsRunAtomically :
    State.reset.inflight = none ∧ State.reset.pending = [] ∧ State.reset.inputs = [] ∧
    ∀ a ∈ [hostWrite .arg 7, hostCommand (.zero 0 31 false), hostWrite .ctrl 1],
      inWindow a = true ∧ isStatusRead a = false := by
  refine ⟨rfl, rfl, rfl, ?_⟩
  intro a ha
  simp only [List.mem_cons, List.not_mem_nil, or_false] at ha
  rcases ha with rfl | rfl | rfl <;> exact ⟨inWindow_hostWrite _ _, isStatusRead_hostWrite _ _⟩
end

