-- ==== Sys2Proof/Proofs/EveryCommandCommits.lean ====
section
/-! SUPPORT. Every command commits: whatever its rule does, `complete` ends it idle, and a rule that succeeds has written
nothing but its destinations, DATA and RES (00_scope.md R26; 10_state.md R36, R46; 70_reset_and_hazards.md R280). -/

namespace Sys2Proof.Machine

/-- What a command leaves unchanged between `s` and `t` whatever its kind of result: CMD, ARG, what stands outside the
block, and every value register but those in `ds`. DATA, RES and STATUS may change. -/
structure KeepsAllBut (ds : List RegIx) (s t : State) : Prop where
  cmd : t.cmd = s.cmd
  arg : t.arg = s.arg
  outside : SameOutside s t
  regs : ∀ j, j ∉ ds → t.readV j = s.readV j

/-! The frame of each update a rule makes. -/

section
variable {ds : List RegIx} {s t : State}

theorem KeepsAllBut.refl (ds : List RegIx) (s : State) : KeepsAllBut ds s s :=
  ⟨rfl, rfl, ⟨rfl, rfl, rfl⟩, fun _ _ => rfl⟩

theorem KeepsAllBut.writeV {rd : RegIx} (hrd : rd ∈ ds) (h : KeepsAllBut ds s t) (r : VReg) :
    KeepsAllBut ds s (t.writeV rd r) where
  cmd := h.cmd
  arg := h.arg
  outside := h.outside
  regs j hj := by
    have hne : j ≠ rd := fun e => hj (e ▸ hrd)
    rw [State.readV_writeV_ne _ _ _ _ hne, h.regs j hj]

theorem KeepsAllBut.writeRes (h : KeepsAllBut ds s t) (x : Word) : KeepsAllBut ds s (t.writeRes x) :=
  ⟨h.cmd, h.arg, h.outside, by simpa using h.regs⟩

theorem KeepsAllBut.writeData (h : KeepsAllBut ds s t) (k : Fin 8) (x : Word) : KeepsAllBut ds s (t.writeData k x) :=
  ⟨h.cmd, h.arg, h.outside, by simpa using h.regs⟩

theorem KeepsAllBut.writeDataAll (h : KeepsAllBut ds s t) (d : Vector Word 8) : KeepsAllBut ds s (t.writeDataAll d) :=
  ⟨h.cmd, h.arg, h.outside, by simpa using h.regs⟩

theorem KeepsAllBut.writeNative (h : KeepsAllBut ds s t) (n : NativeWidth) (u : Nat) :
    KeepsAllBut ds s (t.writeNative n u) := by
  cases n with
  | n32 => exact h.writeData 0 _
  | n64 => exact (h.writeData 0 _).writeData 1 _

theorem KeepsAllBut.succeed (h : KeepsAllBut ds s t) (op : Opcode) : KeepsAllBut ds s (t.succeed op) :=
  ⟨h.cmd, h.arg, h.outside, by simpa using h.regs⟩

theorem KeepsAllBut.fail (h : KeepsAllBut ds s t) (op : Opcode) (e : ErrKind) : KeepsAllBut ds s (t.fail op e) :=
  ⟨h.cmd, h.arg, h.outside, by simpa using h.regs⟩

end

/-- A rule that, if it raises no error kind, has kept everything but the registers in `ds`, DATA and RES. -/
def RuleKeeps (ds : List RegIx) (s : State) (r : Except ErrKind State) : Prop := ∀ u, r = .ok u → KeepsAllBut ds s u

/-! One lemma per form a rule takes: it raises an error, answers a state, tests, or reads an operand first. -/

section
variable {ds : List RegIx} {s : State}

theorem RuleKeeps.error (e : ErrKind) : RuleKeeps ds s (.error e) := nofun

theorem RuleKeeps.ok {u : State} (h : KeepsAllBut ds s u) : RuleKeeps ds s (.ok u) := by
  rintro _ ⟨⟩
  exact h

theorem RuleKeeps.ite {c : Prop} [Decidable c] {r r' : Except ErrKind State} (h : RuleKeeps ds s r)
    (h' : RuleKeeps ds s r') : RuleKeeps ds s (if c then r else r') := by
  split
  · exact h
  · exact h'

theorem RuleKeeps.bind {α : Type} {x : Except ErrKind α} {f : α → Except ErrKind State}
    (h : ∀ a, RuleKeeps ds s (f a)) : RuleKeeps ds s (x >>= f) := by
  cases x with
  | ok a => exact h a
  | error e => exact .error e

theorem RuleKeeps.writeV (rd : RegIx) (r : VReg) : RuleKeeps [rd] s (.ok (s.writeV rd r)) :=
  .ok ((KeepsAllBut.refl _ s).writeV (List.mem_singleton_self rd) r)

theorem RuleKeeps.writeVPair (rd rd2 : RegIx) (q r : VReg) :
    RuleKeeps [rd, rd2] s (.ok ((s.writeV rd q).writeV rd2 r)) :=
  .ok (((KeepsAllBut.refl _ s).writeV (by simp) q).writeV (by simp) r)

theorem RuleKeeps.writeRes (x : Word) : RuleKeeps [] s (.ok (s.writeRes x)) :=
  .ok ((KeepsAllBut.refl _ s).writeRes x)

end

/-- An outcome in which a command with opcode `op` has committed: the core is idle, LASTOP is `op`, and of the value
registers only those in `ds` may have changed. -/
def Commits (op : Opcode) (ds : List RegIx) (s : State) (o : Host.Outcome State Fault Refusal) : Prop :=
  ∃ t, o = .next t ∧ t.inflight = none ∧ t.lastop = op ∧ KeepsAllBut ds s t

/-- Either completion commits: success keeps what the rule kept, and an error keeps everything (R245, R246). -/
theorem complete_commits {op : Opcode} {ds : List RegIx} {s : State} {r : Except ErrKind State} (h : RuleKeeps ds s r) :
    Commits op ds s (complete op s r) := by
  cases r with
  | ok u => exact ⟨_, complete_ok op s u, rfl, rfl, (h u rfl).succeed op⟩
  | error e => exact ⟨_, complete_error op s e, rfl, rfl, (KeepsAllBut.refl ds s).fail op e⟩

theorem binaryToV_commits (op : Opcode) (rd rs1 rs2 : RegIx) (f : VReg → VReg → Int) (s : State) :
    Commits op [rd] s (binaryToV op rd rs1 rs2 f s) :=
  complete_commits (.bind fun _ => .writeV rd _)

theorem shiftToV_commits (op : Opcode) (rd rs1 : RegIx) (f : VReg → Nat → Int) (s : State) :
    Commits op [rd] s (shiftToV op rd rs1 f s) :=
  complete_commits (.bind fun _ => .ite (.error _) (.writeV rd _))

theorem execDivrem_commits (rd rs1 rs2 rd2 : RegIx) (s : State) :
    Commits (opcodeOf (.divrem rd rs1 rs2 rd2)) [rd, rd2] s (execDivrem rd rs1 rs2 rd2 s) :=
  complete_commits (.ite (.error _) (.bind fun _ => .ite (.error _) (.writeVPair rd rd2 _ _)))

/-- Each arm follows the form of the command's rule. (`exec` is unfolded first: left to unification, it is compared with
the shared operations by unfolding those.) -/
theorem exec_commits (i : Instr) (s : State) : Commits (opcodeOf i) (destinations i) s (exec i s) := by
  unfold exec
  cases i with
  | zero rd => exact complete_commits (.writeV rd _)
  | ldw rd => exact complete_commits (.ite (.writeV rd _) (.error _))
  | stw => exact complete_commits (.bind fun a => .ok ((KeepsAllBut.refl _ s).writeDataAll a.wd))
  | getbit => exact complete_commits (.bind fun _ => .ite (.error _) (.writeRes _))
  | iszero => exact complete_commits (.bind fun _ => .writeRes _)
  | signbit => exact complete_commits (.bind fun _ => .writeRes _)
  | typeof => exact complete_commits (.writeRes _)
  | add rd rs1 rs2 => exact binaryToV_commits _ rd rs1 rs2 _ s
  | sub rd rs1 rs2 => exact binaryToV_commits _ rd rs1 rs2 _ s
  | mul rd rs1 rs2 => exact binaryToV_commits _ rd rs1 rs2 _ s
  | divrem rd rs1 rs2 rd2 => exact execDivrem_commits rd rs1 rs2 rd2 s
  | shl rd rs1 => exact shiftToV_commits _ rd rs1 _ s
  | shr rd rs1 => exact shiftToV_commits _ rd rs1 _ s
  | and rd rs1 rs2 => exact binaryToV_commits _ rd rs1 rs2 _ s
  | or rd rs1 rs2 => exact binaryToV_commits _ rd rs1 rs2 _ s
  | xor rd rs1 rs2 => exact binaryToV_commits _ rd rs1 rs2 _ s
  | not rd => exact complete_commits (.bind fun _ => .writeV rd _)
  | cmp => exact complete_commits (.bind fun _ => .writeRes _)
  | widen rd => exact complete_commits (.bind fun _ => .ite (.error _) (.writeV rd _))
  | narrow rd => exact complete_commits (.bind fun _ => .ite (.error _) (.writeV rd _))
  | reint rd => exact complete_commits (.bind fun _ => .writeV rd _)
  | fromnat rd => exact complete_commits (.ite (.writeV rd _) (.error _))
  | tonat _ n =>
    exact complete_commits (.bind fun _ => .ite (.ok ((KeepsAllBut.refl _ s).writeNative n _)) (.error _))

theorem busy_eq_false {t : State} (h : t.inflight = none) : busy t = false := by simp [busy, h]

/-- Settles O9, by the form of each command's rule (`exec_commits`). -/
theorem everyCommandCommits : Obligations.EveryCommandCommits := by
  intro i s
  obtain ⟨t, hexec, hidle, hop, hkeeps⟩ := exec_commits i s
  exact ⟨t, hexec, busy_eq_false hidle, hidle, hop, hkeeps.cmd, hkeeps.arg, hkeeps.outside, hkeeps.regs⟩

end Sys2Proof.Machine
end

section
/-! SUPPORT. The commit of a word, legal or not, leaves an idle core and the word's opcode field in LASTOP (10_state.md
R43, R46; 30_encoding.md R98 to R101). -/

namespace Sys2Proof

theorem selectRow_eq_ok {c mask row : Word} {legal : Except DecodeError Instr} {i : Instr}
    (h : selectRow c mask row legal = .ok i) : legal = .ok i := by
  unfold selectRow at h
  split at h
  · exact h
  · cases h

/-- A word decodes to commands of its own opcode field only: each row of the decoder names its opcode. -/
theorem opcodeOf_decode {c : Word} {i : Instr} (h : decode c = .ok i) : opcodeOf i = opField c := by
  unfold decode at h
  split at h
  case h_11 hop =>
    have hrow := selectRow_eq_ok h
    split at hrow
    · cases hrow
    · cases hrow; exact hop.symm
  case h_22 hop | h_23 hop =>
    have hrow := selectRow_eq_ok h
    split at hrow
    · cases hrow; exact hop.symm
    · cases hrow
  case h_24 => cases h
  all_goals
    cases selectRow_eq_ok h
    exact Eq.symm ‹_›

end Sys2Proof

namespace Sys2Proof.Machine

theorem commitWord_legal {c : Word} {i : Instr} (h : decode c = .ok i) (s : State) : commitWord c s = exec i s := by
  simp [commitWord, h]

theorem commitWord_illegal {c : Word} {e : DecodeError} (h : decode c = .error e) (s : State) :
    commitWord c s = .next (s.fail (opField c) .illegalCommand) := by
  simp [commitWord, h]

/-- Every word commits, an illegal one with no destination. -/
theorem commitWord_commits (c : Word) (s : State) : ∃ ds, Commits (opField c) ds s (commitWord c s) := by
  cases hd : decode c with
  | ok i =>
    rw [commitWord_legal hd, ← opcodeOf_decode hd]
    exact ⟨destinations i, exec_commits i s⟩
  | error e =>
    rw [commitWord_illegal hd]
    exact ⟨[], _, rfl, rfl, rfl, (KeepsAllBut.refl [] s).fail _ _⟩

end Sys2Proof.Machine
end

section
/-! SUPPORT. What a step that answers a next state has done, and what it leaves outside the block. -/

namespace Sys2Proof.Machine

/-- What a cycle without reset can answer: an idle core serves an access, a waiting one counts, and the others commit. -/
theorem coreCycle_cases {s t : State} (h : coreCycle s = .next t) :
    (s.inflight = none ∧ t = s.serve) ∨
    (∃ c k, s.inflight = some { word := c, left := k + 1 } ∧
      t = { s.serveBusy with inflight := some { word := c, left := k } }) ∨
    (∃ c, s.inflight = some { word := c, left := 0 } ∧ commitWord c s.serveBusy = .next t) := by
  match hf : s.inflight with
  | none =>
    rw [coreCycle_idle hf] at h
    cases h
    exact .inl ⟨rfl, rfl⟩
  | some ⟨c, 0⟩ =>
    rw [coreCycle_committing hf] at h
    exact .inr (.inr ⟨c, rfl, h⟩)
  | some ⟨c, k + 1⟩ =>
    rw [coreCycle_waiting hf] at h
    cases h
    exact .inr (.inl ⟨c, k, rfl, rfl⟩)

/-- A step that answers a next state was a reset cycle or a cycle of the core. -/
theorem step_cases {s t : State} (h : step s = .next t) :
    (s.thisCycle.resetLine = true ∧ t = s.takeInput.resetBlock) ∨
    (s.thisCycle.resetLine = false ∧ coreCycle s.takeInput = .next t) := by
  cases hw : s.thisCycle.issue.all inWindow with
  | false => rw [step_outside hw] at h; cases h
  | true =>
    cases hr : s.thisCycle.resetLine with
    | false => exact .inr ⟨rfl, step_running hw hr ▸ h⟩
    | true =>
      rw [step_resetting hw hr] at h
      split at h
      · cases h; exact .inl ⟨rfl, rfl⟩
      · cases h

/-- A step with a command in flight changes outside the block only what taking the input and answering a STATUS read do,
in the commit step too (log entry 3). -/
theorem step_busy_sameOutside {s t : State} (hb : busy s = true) (hr : s.thisCycle.resetLine = false)
    (h : step s = .next t) : SameOutside s.atCommit t := by
  rcases step_cases h with ⟨hreset, -⟩ | ⟨-, hcore⟩
  · rw [hr] at hreset; cases hreset
  · rcases coreCycle_cases hcore with ⟨hidle, -⟩ | ⟨c, k, -, rfl⟩ | ⟨c, -, hc⟩
    · rw [State.takeInput_inflight] at hidle
      simp [busy, hidle] at hb
    · exact ⟨rfl, rfl, rfl⟩
    · obtain ⟨ds, u, hu, -, -, hkeeps⟩ := commitWord_commits c s.takeInput.serveBusy
      cases hu.symm.trans hc
      exact hkeeps.outside

/-- A write that is the oldest pending access stays so while a command is in flight, and nothing is answered. -/
theorem step_busy_holds_hostWrite {s t : State} {r : WinReg} {x : Word} {rest : List Access} (hb : busy s = true)
    (hr : s.thisCycle.resetLine = false) (hp : s.pending = hostWrite r x :: rest) (h : step s = .next t) :
    t.pending = hostWrite r x :: rest ++ s.thisCycle.issue.toList ∧ t.responses = s.responses := by
  have hpending : s.takeInput.pending = hostWrite r x :: (rest ++ s.thisCycle.issue.toList) := by simp [hp]
  have hheld : s.atCommit = s.takeInput := serveBusy_held hpending (isStatusRead_hostWrite r x)
  obtain ⟨hpend, -, hresp⟩ := step_busy_sameOutside hb hr h
  rw [hheld] at hpend hresp
  exact ⟨by simpa using hpend.trans hpending, hresp⟩

/-- The soft reset (10_state.md R42). -/
theorem writeReg_ctrl_set {x : Word} (hx : x.getLsbD 0 = true) (s : State) : writeReg s .ctrl x = s.resetBlock :=
  if_pos hx

theorem writeReg_ctrl_clear {x : Word} (hx : x.getLsbD 0 = false) (s : State) : writeReg s .ctrl x = s :=
  if_neg (Bool.eq_false_iff.mp hx)

/-- A write to a register touches nothing outside the block. -/
theorem writeReg_sameOutside (s : State) (r : WinReg) (x : Word) : SameOutside s (writeReg s r x) := by
  cases r with
  | ctrl =>
    cases hx : x.getLsbD 0 with
    | true => rw [writeReg_ctrl_set hx]; exact ⟨rfl, rfl, rfl⟩
    | false => rw [writeReg_ctrl_clear hx]; exact ⟨rfl, rfl, rfl⟩
  | _ => exact ⟨rfl, rfl, rfl⟩

/-- The state after the cycle in which a CMD write of `c` was the oldest access and `rest` the others: the word is
accepted and the write answered. -/
def State.accepted (s : State) (c : Word) (rest : List Access) : State :=
  { s.takeInput.accept c with pending := rest, responses := s.responses ++ [.done] }

/-- An idle step in which a CMD write is the oldest access, held or just issued, accepts the word (10_state.md R46). -/
theorem step_accepts {s : State} {c : Word} {rest : List Access} (hidle : s.inflight = none)
    (hw : s.thisCycle.issue.all inWindow = true) (hr : s.thisCycle.resetLine = false)
    (hp : s.takeInput.pending = hostWrite .cmd c :: rest) :
    step s = .next (s.accepted c rest) := by
  rw [step_running hw hr, coreCycle_idle (s := s.takeInput) hidle, serve_cons hp, perform_hostWrite]
  rfl

end Sys2Proof.Machine
end

section
/-! SUPPORT. The invariant: every command keeps it, because each rule writes canonical values only and raises no
reserved kind; so does every access, and both resets establish it (10_state.md R33, R40, R43; 60_exceptions.md R241). -/

namespace Sys2Proof.Machine

/-! ## Canonical values -/

/-- Every register that holds a value holds it in canonical form (10_state.md R33). -/
def AllCanonical (s : State) : Prop := ∀ i, Canonical (s.readV i)

theorem canonical_mk (wc : WidthCode) (sg : Bool) (x : Int) : Canonical (mk wc sg x) := fun _ => (mk_val_mk wc sg x).symm

theorem canonical_empty : Canonical VReg.empty := nofun

/-- The canonical form is a fact about the value registers alone. -/
theorem AllCanonical.of_readV {s t : State} (h : AllCanonical s) (hv : ∀ j, t.readV j = s.readV j) : AllCanonical t :=
  fun j => hv j ▸ h j

theorem AllCanonical.writeV {s : State} (h : AllCanonical s) (i : RegIx) {r : VReg} (hr : Canonical r) :
    AllCanonical (s.writeV i r) := by
  intro j
  rw [State.readV_writeV]
  split
  · exact hr
  · exact h j

theorem AllCanonical.writeNative {s : State} (h : AllCanonical s) (n : NativeWidth) (u : Nat) :
    AllCanonical (s.writeNative n u) := by
  cases n with
  | n32 => exact h.of_readV (by simp [State.writeNative])
  | n64 => exact h.of_readV (by simp [State.writeNative])

/-! ## The rules of the commands -/

/-- A rule that leaves every register canonical, and raises any kind but the reserved ParseError. -/
structure RuleSound (r : Except ErrKind State) : Prop where
  canonical : ∀ u, r = .ok u → AllCanonical u
  kind : r ≠ .error .parseError

section
variable {s : State}

theorem RuleSound.error {e : ErrKind} (he : e ≠ .parseError) : RuleSound (.error e) :=
  ⟨nofun, fun h => he (Except.error.inj h)⟩

theorem RuleSound.ok {u : State} (h : AllCanonical u) : RuleSound (.ok u) :=
  ⟨by rintro _ ⟨⟩; exact h, nofun⟩

theorem RuleSound.ite {c : Prop} [Decidable c] {r r' : Except ErrKind State} (h : RuleSound r) (h' : RuleSound r') :
    RuleSound (if c then r else r') := by
  split
  · exact h
  · exact h'

theorem RuleSound.bind {α : Type} {x : Except ErrKind α} {f : α → Except ErrKind State}
    (hx : x ≠ .error .parseError) (h : ∀ a, RuleSound (f a)) : RuleSound (x >>= f) := by
  cases x with
  | ok a => exact h a
  | error e => exact .error fun he => hx (he ▸ rfl)

theorem RuleSound.writeV (h : AllCanonical s) (rd : RegIx) {r : VReg} (hr : Canonical r) :
    RuleSound (.ok (s.writeV rd r)) :=
  .ok (h.writeV rd hr)

theorem RuleSound.writeRes (h : AllCanonical s) (x : Word) : RuleSound (.ok (s.writeRes x)) :=
  .ok (h.of_readV (State.readV_writeRes s x))

/-- Reading a source operand raises Uninitialized only. -/
theorem src_ne_parseError (s : State) (i : RegIx) : src s i ≠ .error .parseError := by
  rcases src_cases s i with ⟨-, e⟩ | ⟨-, e⟩ <;> rw [e] <;> nofun

/-- Reading two operands raises Uninitialized or TypeMismatch only. -/
theorem srcPair_ne_parseError (s : State) (rs1 rs2 : RegIx) : srcPair s rs1 rs2 ≠ .error .parseError := by
  rcases srcPair_cases s rs1 rs2 with ⟨-, e⟩ | ⟨-, -, -, e⟩ | ⟨-, -, -, e⟩ <;> rw [e] <;> nofun

theorem RuleSound.source {rs1 : RegIx} {f : VReg → Except ErrKind State} (h : ∀ a, RuleSound (f a)) :
    RuleSound (src s rs1 >>= f) :=
  .bind (src_ne_parseError s rs1) h

theorem RuleSound.sources {rs1 rs2 : RegIx} {f : VReg × VReg → Except ErrKind State} (h : ∀ p, RuleSound (f p)) :
    RuleSound (srcPair s rs1 rs2 >>= f) :=
  .bind (srcPair_ne_parseError s rs1 rs2) h

end

/-! ## The commit -/

/-- An outcome that, if it is a next state, has canonical registers and an error code that is not reserved. -/
def SoundOutcome (o : Host.Outcome State Fault Refusal) : Prop :=
  ∀ t, o = .next t → AllCanonical t ∧ ProducedCode t.errcode

section
variable {s : State} (h : AllCanonical s)
include h

theorem fail_sound (op : Opcode) {e : ErrKind} (he : e ≠ .parseError) : SoundOutcome (.next (s.fail op e)) := by
  rintro _ ⟨⟩
  exact ⟨h.of_readV (State.readV_fail s op e), .inr ⟨e, he, rfl⟩⟩

theorem complete_sound {op : Opcode} {r : Except ErrKind State} (hr : RuleSound r) : SoundOutcome (complete op s r) := by
  cases r with
  | ok u =>
    rintro _ ⟨⟩
    exact ⟨(hr.canonical u rfl).of_readV (State.readV_succeed u op), .inl rfl⟩
  | error e => exact fail_sound h op fun he => hr.kind (he ▸ rfl)

theorem binaryToV_sound (op : Opcode) (rd rs1 rs2 : RegIx) (f : VReg → VReg → Int) :
    SoundOutcome (binaryToV op rd rs1 rs2 f s) :=
  complete_sound h (.sources fun _ => .writeV h rd (canonical_mk _ _ _))

theorem shiftToV_sound (op : Opcode) (rd rs1 : RegIx) (f : VReg → Nat → Int) :
    SoundOutcome (shiftToV op rd rs1 f s) :=
  complete_sound h (.source fun _ => .ite (.error nofun) (.writeV h rd (canonical_mk _ _ _)))

theorem execDivrem_sound (rd rs1 rs2 rd2 : RegIx) : SoundOutcome (execDivrem rd rs1 rs2 rd2 s) :=
  complete_sound h (.ite (.error nofun) (.sources fun _ => .ite (.error nofun)
    (.ok ((h.writeV rd (canonical_mk _ _ _)).writeV rd2 (canonical_mk _ _ _)))))

/-- Each arm follows the form of the command's rule, as in `exec_commits`. -/
theorem exec_sound (i : Instr) : SoundOutcome (exec i s) := by
  unfold exec
  cases i with
  | zero rd => exact complete_sound h (.writeV h rd (canonical_mk _ _ _))
  | ldw rd => exact complete_sound h (.ite (.writeV h rd (canonical_mk _ _ _)) (.error nofun))
  | stw => exact complete_sound h (.source fun a => .ok (h.of_readV (State.readV_writeDataAll s a.wd)))
  | getbit => exact complete_sound h (.source fun _ => .ite (.error nofun) (.writeRes h _))
  | iszero => exact complete_sound h (.source fun _ => .writeRes h _)
  | signbit => exact complete_sound h (.source fun _ => .writeRes h _)
  | typeof => exact complete_sound h (.writeRes h _)
  | add rd rs1 rs2 => exact binaryToV_sound h _ rd rs1 rs2 _
  | sub rd rs1 rs2 => exact binaryToV_sound h _ rd rs1 rs2 _
  | mul rd rs1 rs2 => exact binaryToV_sound h _ rd rs1 rs2 _
  | divrem rd rs1 rs2 rd2 => exact execDivrem_sound h rd rs1 rs2 rd2
  | shl rd rs1 => exact shiftToV_sound h _ rd rs1 _
  | shr rd rs1 => exact shiftToV_sound h _ rd rs1 _
  | and rd rs1 rs2 => exact binaryToV_sound h _ rd rs1 rs2 _
  | or rd rs1 rs2 => exact binaryToV_sound h _ rd rs1 rs2 _
  | xor rd rs1 rs2 => exact binaryToV_sound h _ rd rs1 rs2 _
  | not rd => exact complete_sound h (.source fun _ => .writeV h rd (canonical_mk _ _ _))
  | cmp => exact complete_sound h (.sources fun _ => .writeRes h _)
  | widen rd => exact complete_sound h (.source fun _ => .ite (.error nofun) (.writeV h rd (canonical_mk _ _ _)))
  | narrow rd => exact complete_sound h (.source fun _ => .ite (.error nofun) (.writeV h rd (canonical_mk _ _ _)))
  | reint rd => exact complete_sound h (.source fun _ => .writeV h rd (canonical_mk _ _ _))
  | fromnat rd => exact complete_sound h (.ite (.writeV h rd (canonical_mk _ _ _)) (.error nofun))
  | tonat _ n => exact complete_sound h (.source fun _ => .ite (.ok (h.writeNative n _)) (.error nofun))

theorem commitWord_sound (c : Word) : SoundOutcome (commitWord c s) := by
  cases hd : decode c with
  | ok i => rw [commitWord_legal hd]; exact exec_sound h i
  | error e => rw [commitWord_illegal hd]; exact fail_sound h _ nofun

end

/-- A commit of the in-flight word keeps the invariant: LASTOP becomes the opcode field of that word, which is in CMD. -/
theorem commitWord_inv {s t : State} {f : InFlight} (h : Inv s) (hf : s.inflight = some f)
    (hc : commitWord f.word s = .next t) : Inv t := by
  obtain ⟨hcanonical, hcode⟩ := commitWord_sound h.canonical f.word t hc
  obtain ⟨ds, u, hu, hidle, hlastop, hkeeps⟩ := commitWord_commits f.word s
  cases hu.symm.trans hc
  exact
    { canonical := hcanonical
      code := hcode
      inflightCmd := by simp [hidle]
      idleLastop := fun _ => by rw [hlastop, hkeeps.cmd, h.inflightCmd f hf] }

/-! ## Accesses and resets -/

/-- The invariant speaks of the value registers, ERRCODE, the command in flight, CMD and LASTOP only. -/
theorem Inv.congr {s t : State} (h : Inv s) (hv : t.v = s.v) (he : t.errcode = s.errcode)
    (hf : t.inflight = s.inflight) (hc : t.cmd = s.cmd) (hl : t.lastop = s.lastop) : Inv t where
  canonical := AllCanonical.of_readV h.canonical fun j => by simp [State.readV, hv]
  code := he ▸ h.code
  inflightCmd f := by rw [hf, hc]; exact h.inflightCmd f
  idleLastop := by rw [hf, hc, hl]; exact h.idleLastop

/-- With a command in flight, the count of cycles left does not matter to the invariant. -/
theorem Inv.setLeft {s : State} {f : InFlight} (h : Inv s) (hf : s.inflight = some f) (k : Nat) :
    Inv { s with inflight := some { f with left := k } } where
  canonical := h.canonical
  code := h.code
  inflightCmd := by rintro _ ⟨⟩; exact h.inflightCmd f hf
  idleLastop := nofun

theorem resetBlock_inv (s : State) : Inv s.resetBlock where
  canonical j := by rw [State.readV_resetBlock]; exact canonical_empty
  code := .inl rfl
  inflightCmd := nofun
  idleLastop _ := by rw [State.resetBlock_lastop, State.resetBlock_cmd]; decide

theorem accept_inv {s : State} (h : Inv s) (c : Word) : Inv (s.accept c) where
  canonical := AllCanonical.of_readV h.canonical (State.readV_accept s c)
  code := h.code
  inflightCmd := by rintro _ ⟨⟩; rfl
  idleLastop := nofun

theorem writeReg_inv {s : State} (h : Inv s) (r : WinReg) (x : Word) : Inv (writeReg s r x) := by
  cases r with
  | ctrl =>
    cases hx : x.getLsbD 0 with
    | true => rw [writeReg_ctrl_set hx]; exact resetBlock_inv s
    | false => rw [writeReg_ctrl_clear hx]; exact h
  | cmd => exact accept_inv h x
  | id | status | res => exact h
  | arg => exact h.congr rfl rfl rfl rfl rfl
  | data k => exact h.congr rfl rfl rfl rfl rfl

theorem perform_inv {s : State} (h : Inv s) (a : Access) : Inv (perform s a).1 := by
  unfold perform
  split
  · exact h
  · split
    · exact h
    · exact writeReg_inv h _ _

theorem serve_inv {s : State} (h : Inv s) : Inv s.serve := by
  cases hp : s.pending with
  | nil => rwa [serve_nil hp]
  | cons a rest =>
    have hrest : Inv { s with pending := rest } := h.congr rfl rfl rfl rfl rfl
    rw [serve_cons hp]
    exact (perform_inv hrest a).congr rfl rfl rfl rfl rfl

theorem serveBusy_inv {s : State} (h : Inv s) : Inv s.serveBusy :=
  h.congr (serveBusy_v s) (serveBusy_errcode s) (serveBusy_inflight s) (serveBusy_cmd s) (serveBusy_lastop s)

theorem coreCycle_inv {s t : State} (h : Inv s) (hc : coreCycle s = .next t) : Inv t := by
  rcases coreCycle_cases hc with ⟨-, rfl⟩ | ⟨c, k, hf, rfl⟩ | ⟨c, hf, hcommit⟩
  · exact serve_inv h
  · exact (serveBusy_inv h).setLeft ((serveBusy_inflight s).trans hf) k
  · exact commitWord_inv (serveBusy_inv h) ((serveBusy_inflight s).trans hf) hcommit

/-- Settles O41, by what a step can do (`step_cases`): a reset cycle, or a cycle of the core with the input taken. -/
theorem everyStepKeepsInv : Obligations.EveryStepKeepsInv := by
  intro s t h hstep
  rcases step_cases hstep with ⟨-, rfl⟩ | ⟨-, hcore⟩
  · exact resetBlock_inv _
  · have htaken : Inv s.takeInput := h.congr rfl rfl rfl rfl rfl
    exact coreCycle_inv htaken hcore

/-- Settles O40: `State.reset` is a reset block. -/
theorem invAtReset : Obligations.InvAtReset := resetBlock_inv State.reset

end Sys2Proof.Machine
end

section
/-! SUPPORT. The two resets and the reset table (10_state.md R42, R52; 70_reset_and_hazards.md R270 to R272). -/

namespace Sys2Proof.Machine

/-- A reset block is at the reset table, whatever stands outside it. -/
theorem resetBlock_atResetValues (s : State) : AtResetValues s.resetBlock := by
  have hstatus : statusWord s.resetBlock = 0 := by
    simp only [statusWord, errBit, busy, State.resetBlock_errcode, State.resetBlock_lastop, State.resetBlock_inflight]
    decide
  refine ⟨fun i => ?_, fun k => ?_, rfl, rfl, rfl, rfl, hstatus, rfl, rfl⟩
  · rw [State.readV_resetBlock]
    exact ⟨rfl, rfl, rfl, fun k => by simp [VReg.empty]⟩
  · simp [readReg]

theorem perform_softReset {x : Word} (hx : x.getLsbD 0 = true) (s : State) :
    perform s (hostWrite .ctrl x) = (s.resetBlock, .done) := by
  rw [perform_hostWrite, writeReg_ctrl_set hx]

/-- Settles O42: every one of the three resets gives a reset block. -/
theorem resetSetsTheResetTable : Obligations.ResetSetsTheResetTable := by
  refine ⟨resetBlock_atResetValues State.reset, fun s t hr hstep => ?_, fun s x hx => ?_⟩
  · rcases step_cases hstep with ⟨-, rfl⟩ | ⟨hlow, -⟩
    · exact resetBlock_atResetValues _
    · rw [hr] at hlow; cases hlow
  · rw [perform_softReset hx]
    exact resetBlock_atResetValues s

/-- Settles O45: the performed write is a write to CTRL, and a held one is held like every other write. -/
theorem softResetThroughCtrl : Obligations.SoftResetThroughCtrl := by
  refine ⟨fun s x hx => ?_, fun s x hx => ?_, fun s t x rest => step_busy_holds_hostWrite⟩
  · rw [perform_softReset hx]
    exact ⟨resetBlock_atResetValues s, rfl, ⟨rfl, rfl, rfl⟩⟩
  · rw [perform_hostWrite, writeReg_ctrl_clear hx]

end Sys2Proof.Machine
end

section
/-! SUPPORT. What the registers of the window read, and where a write lands (10_state.md R37 to R45; 20_memory.md R62,
R68). -/

namespace Sys2Proof.Machine

/-- Only a register's own offset reaches it (10_state.md R45). -/
theorem regAt_eq_some {off : Nat} {r : WinReg} (h : regAt off = some r) : off = regOffset r := by
  unfold regAt at h
  split at h <;> cases h <;> rfl

/-- Settles O47: a read at a register's offset is the host's read of that register. -/
theorem readsReturnTheRegisters : Obligations.ReadsReturnTheRegisters := by
  refine ⟨⟨rfl, rfl, rfl, rfl, rfl, rfl, rfl, rfl, fun k => regAt_regOffset (.data k)⟩, ?_,
    fun s => ⟨rfl, rfl, rfl, rfl, fun k => rfl⟩, fun s x => perform_hostWrite s .arg x, fun s k x => ?_⟩
  · intro s a off r ha hoff
    have hread : a = hostRead r := by rw [ha, regAt_eq_some hoff, hostRead]
    rw [hread]
    exact ⟨inWindow_hostRead r, perform_hostRead s r⟩
  · have hself : (s.writeData k x).data[k.val] = x := by simp
    have hother (j : Fin 8) (hj : j ≠ k) : (s.writeData k x).data[j.val] = s.data[j.val] := by
      simp [Fin.val_ne_of_ne hj.symm]
    refine ⟨s.writeData k x, perform_hostWrite s _ x, rfl, hself, hother, ?_⟩
    rw [perform_hostRead, readReg, hself]

/-- Settles O48: ID is a constant, so its byte lanes are bytes of that constant. -/
theorem idReadsItsConstant : Obligations.IdReadsItsConstant := fun s x =>
  ⟨rfl, by simp only [byteLane, readReg]; decide, by simp only [byteLane, readReg]; decide,
    perform_hostWrite s .id x, perform_hostRead s .id⟩

/-- The number the STATUS word is, from its fields (10_state.md R43). -/
theorem statusWord_toNat (s : State) : (statusWord s).toNat =
    s.lastop.toNat * 256 + s.errcode.toNat * 16 + (errBit s).toNat * 2 + (busy s).toNat := by
  simp only [statusWord, toNat_append_add, BitVec.toNat_ofBool, BitVec.ofNat_eq_ofNat, BitVec.toNat_ofNat]
  ring

theorem getLsbD_eq_decide {n : Nat} (x : BitVec n) (i : Nat) : x.getLsbD i = decide (x.toNat / 2 ^ i % 2 = 1) := by
  rw [BitVec.getLsbD, Nat.testBit_eq_decide_div_mod_eq]

theorem extractLsb'_eq {n start len : Nat} {x : BitVec n} {y : BitVec len}
    (h : x.toNat / 2 ^ start % 2 ^ len = y.toNat) : x.extractLsb' start len = y := by
  apply BitVec.eq_of_toNat_eq
  rw [BitVec.extractLsb'_toNat, Nat.shiftRight_eq_div_pow, h]

/-- Settles O49, by the number the word is. -/
theorem statusWordFields : Obligations.StatusWordFields := by
  intro s
  have hword := statusWord_toNat s
  have hbusy := (busy s).toNat_le
  have herr := (errBit s).toNat_le
  have hzero (n : Nat) : (0 : BitVec n).toNat = 0 := BitVec.toNat_zero
  refine ⟨?_, ?_, extractLsb'_eq ?_, extractLsb'_eq ?_, extractLsb'_eq ?_, extractLsb'_eq ?_⟩
  · have hbit : (statusWord s).toNat / 2 ^ 0 % 2 = (busy s).toNat := by omega
    rw [getLsbD_eq_decide, hbit]
    cases hb : busy s <;> simp_all [busy]
  · have hbit : (statusWord s).toNat / 2 ^ 1 % 2 = (errBit s).toNat := by omega
    rw [getLsbD_eq_decide, hbit]
    cases hb : errBit s <;> simp_all [errBit]
  · rw [hzero]; omega
  · omega
  · omega
  · rw [hzero]; omega

end Sys2Proof.Machine
end

section
/-! SUPPORT. A command from acceptance to commit (10_state.md R40, R46; 20_memory.md R67; 70_reset_and_hazards.md
R282). -/

namespace Sys2Proof.Machine

/-- Settles O51: a CMD write oldest in an idle step is accepted (`step_accepts`). -/
theorem cmdWriteAcceptsCommand : Obligations.CmdWriteAcceptsCommand := by
  refine ⟨fun s c rest hidle hr hissue hp => ?_, rfl, fun i h => ?_⟩
  · have hpending : s.takeInput.pending = hostWrite .cmd c :: rest := by simp [hp, hissue]
    exact ⟨_, _, step_accepts hidle (by simp [hissue]) hr hpending, rfl, rfl, rfl, rfl, rfl, rfl, rfl, rfl, rfl, rfl,
      rfl, rfl, rfl⟩
  · cases h

/-- Settles O8: what the window adds to the commit is in `serveBusy`, one case per kind of oldest access. -/
theorem stepRunsDecodedCommand : Obligations.StepRunsDecodedCommand := by
  rintro s c i ⟨hflight, hr, hw⟩ hdecode
  refine ⟨?_, fun j => ?_, serveBusy_data _, serveBusy_arg _, serveBusy_res _, serveBusy_cmd _, serveBusy_errcode _,
    serveBusy_lastop _, serveBusy_inflight _, serveBusy_inputs _, fun hnone => ?_, fun a rest holdest => ?_⟩
  · rw [step_running hw hr, coreCycle_committing (s := s.takeInput) hflight, commitWord_legal hdecode, State.atCommit]
  · rw [State.atCommit, serveBusy_readV, State.readV_takeInput]
  · rw [State.atCommit, serveBusy_nil hnone]
    exact ⟨hnone, rfl⟩
  · cases ha : isStatusRead a with
    | true =>
      rw [State.atCommit, serveBusy_statusRead (s := s.takeInput) holdest ha]
      exact ⟨rfl, rfl⟩
    | false =>
      rw [State.atCommit, serveBusy_held (s := s.takeInput) holdest ha]
      exact ⟨holdest, rfl⟩

/-! ## No rule reads the command in flight -/

/-- Two results of a rule, from `s` with another command in flight and from `s`, that complete to the same state. -/
def CompleteAlike (x : Option InFlight) (s : State) (r' r : Except ErrKind State) : Prop :=
  ∀ op, complete op { s with inflight := x } r' = complete op s r

section
variable {x : Option InFlight} {s : State}

theorem CompleteAlike.error (e : ErrKind) : CompleteAlike x s (.error e) (.error e) := fun _ => rfl

/-- The success completion ends the command in flight, whichever it is. -/
theorem CompleteAlike.ok {u' u : State} (h : u' = { u with inflight := u'.inflight }) :
    CompleteAlike x s (.ok u') (.ok u) := by
  intro op
  rw [h]
  rfl

theorem CompleteAlike.ite {c : Prop} [Decidable c] {a' a b' b : Except ErrKind State} (ha : CompleteAlike x s a' a)
    (hb : CompleteAlike x s b' b) : CompleteAlike x s (if c then a' else b') (if c then a else b) := by
  split
  · exact ha
  · exact hb

theorem CompleteAlike.bind {α : Type} {r : Except ErrKind α} {f' f : α → Except ErrKind State}
    (h : ∀ a, CompleteAlike x s (f' a) (f a)) : CompleteAlike x s (r >>= f') (r >>= f) := by
  cases r with
  | ok a => exact h a
  | error e => exact .error e

theorem CompleteAlike.writeV (rd : RegIx) (r : VReg) :
    CompleteAlike x s (.ok (State.writeV { s with inflight := x } rd r)) (.ok (s.writeV rd r)) := .ok rfl

theorem CompleteAlike.writeVPair (rd rd2 : RegIx) (q r : VReg) :
    CompleteAlike x s (.ok ((State.writeV { s with inflight := x } rd q).writeV rd2 r))
      (.ok ((s.writeV rd q).writeV rd2 r)) := .ok rfl

theorem CompleteAlike.writeRes (y : Word) :
    CompleteAlike x s (.ok (State.writeRes { s with inflight := x } y)) (.ok (s.writeRes y)) := .ok rfl

theorem CompleteAlike.writeDataAll (d : Vector Word 8) :
    CompleteAlike x s (.ok (State.writeDataAll { s with inflight := x } d)) (.ok (s.writeDataAll d)) := .ok rfl

theorem CompleteAlike.writeNative (n : NativeWidth) (u : Nat) :
    CompleteAlike x s (.ok (State.writeNative { s with inflight := x } n u)) (.ok (s.writeNative n u)) := by
  cases n with
  | n32 => exact .ok rfl
  | n64 => exact .ok rfl

theorem CompleteAlike.complete_eq {r' r : Except ErrKind State} (h : CompleteAlike x s r' r) (op : Opcode) :
    complete op { s with inflight := x } r' = complete op s r := h op

end

section
variable (x : Option InFlight) (s : State)

theorem binaryToV_setInflight (op : Opcode) (rd rs1 rs2 : RegIx) (f : VReg → VReg → Int) :
    binaryToV op rd rs1 rs2 f { s with inflight := x } = binaryToV op rd rs1 rs2 f s :=
  CompleteAlike.complete_eq (.bind fun _ => .writeV rd _) op

theorem shiftToV_setInflight (op : Opcode) (rd rs1 : RegIx) (f : VReg → Nat → Int) :
    shiftToV op rd rs1 f { s with inflight := x } = shiftToV op rd rs1 f s :=
  CompleteAlike.complete_eq (.bind fun _ => .ite (.error _) (.writeV rd _)) op

theorem execDivrem_setInflight (rd rs1 rs2 rd2 : RegIx) :
    execDivrem rd rs1 rs2 rd2 { s with inflight := x } = execDivrem rd rs1 rs2 rd2 s :=
  CompleteAlike.complete_eq (.ite (.error _) (.bind fun _ => .ite (.error _) (.writeVPair rd rd2 _ _))) _

/-- The meaning of a command does not read the command in flight. -/
theorem exec_setInflight (i : Instr) : exec i { s with inflight := x } = exec i s := by
  unfold exec
  cases i with
  | zero rd => exact CompleteAlike.complete_eq (.writeV rd _) _
  | ldw rd => exact CompleteAlike.complete_eq (.ite (.writeV rd _) (.error _)) _
  | stw => exact CompleteAlike.complete_eq (.bind fun _ => .writeDataAll _) _
  | getbit => exact CompleteAlike.complete_eq (.bind fun _ => .ite (.error _) (.writeRes _)) _
  | iszero => exact CompleteAlike.complete_eq (.bind fun _ => .writeRes _) _
  | signbit => exact CompleteAlike.complete_eq (.bind fun _ => .writeRes _) _
  | typeof => exact CompleteAlike.complete_eq (.writeRes _) _
  | add rd rs1 rs2 => exact binaryToV_setInflight x s _ rd rs1 rs2 _
  | sub rd rs1 rs2 => exact binaryToV_setInflight x s _ rd rs1 rs2 _
  | mul rd rs1 rs2 => exact binaryToV_setInflight x s _ rd rs1 rs2 _
  | divrem rd rs1 rs2 rd2 => exact execDivrem_setInflight x s rd rs1 rs2 rd2
  | shl rd rs1 => exact shiftToV_setInflight x s _ rd rs1 _
  | shr rd rs1 => exact shiftToV_setInflight x s _ rd rs1 _
  | and rd rs1 rs2 => exact binaryToV_setInflight x s _ rd rs1 rs2 _
  | or rd rs1 rs2 => exact binaryToV_setInflight x s _ rd rs1 rs2 _
  | xor rd rs1 rs2 => exact binaryToV_setInflight x s _ rd rs1 rs2 _
  | not rd => exact CompleteAlike.complete_eq (.bind fun _ => .writeV rd _) _
  | cmp => exact CompleteAlike.complete_eq (.bind fun _ => .writeRes _) _
  | widen rd => exact CompleteAlike.complete_eq (.bind fun _ => .ite (.error _) (.writeV rd _)) _
  | narrow rd => exact CompleteAlike.complete_eq (.bind fun _ => .ite (.error _) (.writeV rd _)) _
  | reint rd => exact CompleteAlike.complete_eq (.bind fun _ => .writeV rd _) _
  | fromnat rd => exact CompleteAlike.complete_eq (.ite (.writeV rd _) (.error _)) _
  | tonat _ n => exact CompleteAlike.complete_eq (.bind fun _ => .ite (.writeNative n _) (.error _)) _

theorem commitWord_setInflight (c : Word) : commitWord c { s with inflight := x } = commitWord c s := by
  cases hd : decode c with
  | ok i => rw [commitWord_legal hd, commitWord_legal hd, exec_setInflight]
  | error e => rw [commitWord_illegal hd, commitWord_illegal hd]; rfl

end

/-! ## From acceptance to commit -/

section
variable {s : State} {c : Word} (hin : s.inputs = []) (hp : s.pending = [])
include hin

theorem thisCycle_quiet : s.thisCycle = Cycle.quiet := by simp [State.thisCycle, hin]

theorem takeInput_quiet : s.takeInput = s := by
  have htail : s.inputs.tail = s.inputs := by rw [hin]; rfl
  have hissue : s.pending ++ s.thisCycle.issue.toList = s.pending := by
    rw [thisCycle_quiet hin]; exact List.append_nil _
  rw [State.takeInput, htail, hissue]

theorem step_quiet : step s = coreCycle s := by
  have hquiet := thisCycle_quiet hin
  rw [step_running (by rw [hquiet]; rfl) (by rw [hquiet]; rfl), takeInput_quiet hin]

include hp

theorem step_quiet_waiting {k : Nat} (hf : s.inflight = some { word := c, left := k + 1 }) :
    step s = .next { s with inflight := some { word := c, left := k } } := by
  rw [step_quiet hin, coreCycle_waiting hf, serveBusy_nil hp]

theorem step_quiet_committing (hf : s.inflight = some { word := c, left := 0 }) : step s = commitWord c s := by
  rw [step_quiet hin, coreCycle_committing hf, serveBusy_nil hp]

end

/-- With nothing pending or to come, `n ≤ k` cycles only count. -/
theorem run_waiting {s : State} {c : Word} {k n : Nat} (hin : s.inputs = []) (hp : s.pending = [])
    (hf : s.inflight = some { word := c, left := k }) (hn : n ≤ k) :
    Host.Core.run core n s = .next { s with inflight := some { word := c, left := k - n } } := by
  induction n generalizing s k with
  | zero => rw [run_zero, Nat.sub_zero, ← hf]
  | succ n ih =>
    obtain ⟨m, rfl⟩ : ∃ m, k = m + 1 := ⟨k - 1, by omega⟩
    have hrest := ih (s := { s with inflight := some { word := c, left := m } }) (k := m) hin hp rfl (by omega)
    rw [Nat.add_sub_add_right]
    exact (run_succ_next n (step_quiet_waiting hin hp hf)).trans hrest

theorem run_one (s : State) : Host.Core.run core 1 s = step s := by
  cases h : step s with
  | next t => exact run_succ_next 0 h
  | fault f => exact run_succ_fault 0 h
  | refused r => exact run_succ_refused 0 h

/-- With nothing pending or to come, the word in flight commits one cycle after its count has run out. -/
theorem run_to_commit {s : State} {c : Word} {k : Nat} (hin : s.inputs = []) (hp : s.pending = [])
    (hf : s.inflight = some { word := c, left := k }) : Host.Core.run core (k + 1) s = commitWord c s := by
  have hwait := run_waiting hin hp hf le_rfl
  rw [Nat.sub_self] at hwait
  have hlast : step { s with inflight := some { word := c, left := 0 } } = commitWord c s := by
    rw [step_quiet_committing (c := c) (by exact hin) (by exact hp) rfl, commitWord_setInflight]
  exact (run_add 1 hwait).trans ((run_one _).trans hlast)

/-- Settles O53: a quiet run counts down and commits, and a CMD write first starts such a run. -/
theorem commandCommitsAfterItsLatency : Obligations.CommandCommitsAfterItsLatency := by
  refine ⟨fun s c k hf hin hp => ⟨fun n => run_waiting hin hp hf, run_to_commit hin hp hf⟩,
    fun s c hidle hp hin => ?_⟩
  have hcycle : s.thisCycle = { resetLine := false, issue := some (hostWrite .cmd c) } := by
    simp [State.thisCycle, hin, hostProgram]
  have hpending : s.takeInput.pending = hostWrite .cmd c :: [] := by simp [hp, hcycle]
  have hrest : s.inputs.tail = [] := by simp [hin, hostProgram]
  have haccept := step_accepts hidle (by simp [hcycle]) (by rw [hcycle]) hpending
  have hrun : Host.Core.run core (Config.lat c s.v s.arg s.data) (s.accepted c []) = commitWord c (s.accepted c []) :=
    run_to_commit (s := s.accepted c []) hrest rfl rfl
  have hstate : { s.accepted c [] with inflight := s.inflight } =
      { s with cmd := c, inputs := [], responses := s.responses ++ [.done] } := by
    simp [State.accepted, State.accept, hrest, hp]
  rw [Nat.add_comm, ← hstate, commitWord_setInflight]
  exact (run_succ_next _ haccept).trans hrun

end Sys2Proof.Machine
end

section
/-! SUPPORT. The accesses the window fails, ignores or holds (20_memory.md R65 to R67; 60_exceptions.md R248). -/

namespace Sys2Proof.Machine

/-! ## Bus errors -/

/-- The reserved offsets are the only multiples of 4 in the window without a register (10_state.md R45). -/
theorem regAt_eq_none_iff : ∀ off < 64, off % 4 = 0 → (regAt off = none ↔ off = 0x18 ∨ off = 0x1C) := by decide

/-- The accesses of 20_memory.md R65, by address. -/
theorem accessTarget_eq_none_iff {a : Access} (h : inWindow a = true) :
    accessTarget a = none ↔ a.bits ≠ 32 ∨ (a.addr - Config.mwauBase) % 4 ≠ 0 ∨ a.addr = Config.mwauBase + 0x18 ∨
      a.addr = Config.mwauBase + 0x1C := by
  obtain ⟨hlow, hhigh⟩ := (inWindow_iff a).mp h
  unfold accessTarget
  split
  case isTrue hshape =>
    rw [regAt_eq_none_iff _ (by omega) hshape.2]
    omega
  case isFalse hshape =>
    refine ⟨fun _ => ?_, fun _ => rfl⟩
    omega

theorem perform_busError {a : Access} (h : accessTarget a = none) (s : State) :
    perform s a = (s, .fault .busError) := by
  simp [perform, h]

/-- An access that reaches a register is answered with a word or as done. -/
theorem perform_eq_busError_iff (s : State) (a : Access) :
    perform s a = (s, .fault .busError) ↔ accessTarget a = none := by
  refine ⟨fun hfault => ?_, fun h => perform_busError h s⟩
  cases ht : accessTarget a with
  | none => rfl
  | some r => cases hop : a.op <;> simp [perform, ht, hop] at hfault

/-- Settles O46, by the register the access reaches. -/
theorem busErrorsChangeNothing : Obligations.BusErrorsChangeNothing := by
  refine ⟨fun s a hwin => ?_, fun s a rest hidle hr hissue hp hwin hbad => ?_⟩
  · rw [perform_eq_busError_iff, accessTarget_eq_none_iff hwin]
  · have hpending : s.takeInput.pending = a :: rest := by simp [hp, hissue]
    rw [step_running (by simp [hissue]) hr, coreCycle_idle (s := s.takeInput) hidle, serve_cons hpending,
      perform_busError ((accessTarget_eq_none_iff hwin).mpr hbad)]
    rfl

/-! ## Ignored writes -/

/-- Settles O50: a read-only register ignores the write performed, and a held write is held like every other. -/
theorem readOnlyWritesAreIgnored : Obligations.ReadOnlyWritesAreIgnored := by
  refine fun r x hreg => ⟨fun s => ?_, fun s t rest => step_busy_holds_hostWrite⟩
  rw [perform_hostWrite]
  rcases hreg with rfl | rfl | rfl <;> rfl

/-! ## The stall -/

/-- What a STATUS read served while a command is in flight returns (10_state.md R43). -/
theorem statusWord_of_busy {s : State} (hb : busy s = true) :
    (statusWord s).getLsbD 0 = true ∧ (statusWord s).getLsbD 1 = decide (s.errcode ≠ 0) ∧
      (statusWord s).extractLsb' 4 4 = s.errcode ∧ (statusWord s).extractLsb' 8 6 = s.lastop := by
  obtain ⟨hbusy, herr, -, hcode, hlastop, -⟩ := statusWordFields s
  exact ⟨hbusy.trans hb, herr, hcode, hlastop⟩

/-- A step with cycles left to wait only counts, besides what the window does. -/
theorem step_waiting {s : State} {c : Word} {k : Nat} (hf : s.inflight = some { word := c, left := k + 1 })
    (hw : s.thisCycle.issue.all inWindow = true) (hr : s.thisCycle.resetLine = false) :
    step s = .next { s.atCommit with inflight := some { word := c, left := k } } := by
  rw [step_running hw hr, coreCycle_waiting (s := s.takeInput) hf, State.atCommit]

/-- Settles O52: what the window does is `serveBusy` with the input taken, one case per kind of oldest access. -/
theorem stallHoldsAllButStatusReads : Obligations.StallHoldsAllButStatusReads := by
  refine ⟨fun s t a rest hb hr holdest hstep => ?_, fun s c k hf hr hwin => ?_⟩
  · obtain ⟨hpend, -, hresp⟩ := step_busy_sameOutside hb hr hstep
    refine ⟨fun ha => ?_, fun ha => ?_⟩
    · have hheld : s.atCommit = s.takeInput := serveBusy_held holdest ha
      rw [hheld] at hpend hresp
      exact ⟨hpend.trans holdest, hresp⟩
    · have hserved := serveBusy_statusRead (s := s.takeInput) holdest ha
      rw [State.atCommit, hserved] at hpend hresp
      exact ⟨hpend, _, hresp, statusWord_of_busy (s := s.takeInput) hb⟩
  · refine ⟨_, step_waiting hf ((issue_all_inWindow_iff s).mpr hwin) hr, rfl, fun j => ?_, serveBusy_data _,
      serveBusy_arg _, serveBusy_res _, serveBusy_cmd _, serveBusy_errcode _, serveBusy_lastop _, serveBusy_inputs _,
      fun hnone => ?_⟩
    · exact (serveBusy_readV s.takeInput j).trans (State.readV_takeInput s j)
    · rw [State.atCommit, serveBusy_nil hnone]
      exact ⟨hnone, rfl⟩

end Sys2Proof.Machine
end

section
/-! SUPPORT. The accesses held and to come are the host's: performing an access and committing a word neither read nor
change them (10_state.md R46; 20_memory.md R67, R71). -/

namespace Sys2Proof.Machine

/-- The block of `s` with other accesses outside it: `held` issued and not yet performed, `coming` issued one a cycle
from here on. -/
def State.withAccesses (s : State) (held coming : List Access) : State :=
  { s with pending := held, inputs := hostProgram coming }

@[simp] theorem State.withAccesses_inflight (s : State) (held coming : List Access) :
    (s.withAccesses held coming).inflight = s.inflight := rfl
@[simp] theorem State.withAccesses_pending (s : State) (held coming : List Access) :
    (s.withAccesses held coming).pending = held := rfl
@[simp] theorem State.withAccesses_inputs (s : State) (held coming : List Access) :
    (s.withAccesses held coming).inputs = hostProgram coming := rfl

/-- An idle machine with nothing to do is its block with no access outside it. -/
theorem State.withAccesses_nil {s : State} (hp : s.pending = []) (hin : s.inputs = []) : s.withAccesses [] [] = s := by
  cases s
  cases hp
  cases hin
  rfl

/-! ## The window -/

section
variable (s : State) (held coming : List Access)

theorem readReg_withAccesses (r : WinReg) : readReg (s.withAccesses held coming) r = readReg s r := by
  cases r <;> rfl

theorem writeReg_withAccesses (r : WinReg) (x : Word) :
    writeReg (s.withAccesses held coming) r x = (writeReg s r x).withAccesses held coming := by
  cases r with
  | ctrl =>
    cases hx : x.getLsbD 0 with
    | true => rw [writeReg_ctrl_set hx, writeReg_ctrl_set hx]; rfl
    | false => rw [writeReg_ctrl_clear hx, writeReg_ctrl_clear hx]
  | _ => rfl

theorem perform_withAccesses (a : Access) :
    perform (s.withAccesses held coming) a = ((perform s a).1.withAccesses held coming, (perform s a).2) := by
  unfold perform
  split
  · rfl
  · split
    · rw [readReg_withAccesses]
    · rw [writeReg_withAccesses]

end

/-- The state after an access is performed and answered. -/
def State.answered (s : State) (a : Access) : State :=
  { (perform s a).1 with responses := (perform s a).1.responses ++ [(perform s a).2] }

theorem atomicAccess_eq (s : State) (a : Access) : atomicAccess s a = settle (s.answered a) := rfl

theorem answered_withAccesses (s : State) (held coming : List Access) (a : Access) :
    (s.withAccesses held coming).answered a = (s.answered a).withAccesses held coming := by
  rw [State.answered, perform_withAccesses]
  rfl

theorem serve_withAccesses (s : State) (a : Access) (held coming : List Access) :
    (s.withAccesses (a :: held) coming).serve = (s.answered a).withAccesses held coming := by
  rw [serve_cons rfl, ← answered_withAccesses]
  rfl

/-! ## The commit -/

/-- An outcome that differs from `o` at most by the accesses outside the block. -/
def OutcomeWith (held coming : List Access) (o' o : Host.Outcome State Fault Refusal) : Prop :=
  ∀ t, o = .next t → o' = .next (t.withAccesses held coming)

/-- A rule's result that differs from `r` at most by the accesses outside the block. -/
def RuleWith (held coming : List Access) (r' r : Except ErrKind State) : Prop :=
  r' = r.map fun t => t.withAccesses held coming

section
variable {held coming : List Access} {s : State}

theorem RuleWith.error (e : ErrKind) : RuleWith held coming (.error e) (.error e) := rfl

theorem RuleWith.ok {u' u : State} (h : u' = u.withAccesses held coming) : RuleWith held coming (.ok u') (.ok u) :=
  congrArg Except.ok h

theorem RuleWith.ite {c : Prop} [Decidable c] {a' a b' b : Except ErrKind State} (ha : RuleWith held coming a' a)
    (hb : RuleWith held coming b' b) : RuleWith held coming (if c then a' else b') (if c then a else b) := by
  split
  · exact ha
  · exact hb

theorem RuleWith.bind {α : Type} {r : Except ErrKind α} {f' f : α → Except ErrKind State}
    (h : ∀ a, RuleWith held coming (f' a) (f a)) : RuleWith held coming (r >>= f') (r >>= f) := by
  cases r with
  | ok a => exact h a
  | error e => exact .error e

theorem RuleWith.writeV (rd : RegIx) (r : VReg) :
    RuleWith held coming (.ok ((s.withAccesses held coming).writeV rd r)) (.ok (s.writeV rd r)) := .ok rfl

theorem RuleWith.writeRes (y : Word) :
    RuleWith held coming (.ok ((s.withAccesses held coming).writeRes y)) (.ok (s.writeRes y)) := .ok rfl

theorem RuleWith.writeNative (n : NativeWidth) (u : Nat) :
    RuleWith held coming (.ok ((s.withAccesses held coming).writeNative n u)) (.ok (s.writeNative n u)) := by
  cases n with
  | n32 => exact .ok rfl
  | n64 => exact .ok rfl

/-- Neither completion reads or changes the accesses. -/
theorem RuleWith.complete {r' r : Except ErrKind State} (h : RuleWith held coming r' r) (op : Opcode) :
    OutcomeWith held coming (complete op (s.withAccesses held coming) r') (complete op s r) := by
  rintro t ht
  rw [RuleWith] at h
  subst h
  cases r with
  | ok u => cases ht; rfl
  | error e => cases ht; rfl

end

section
variable (s : State) (held coming : List Access)

theorem binaryToV_withAccesses (op : Opcode) (rd rs1 rs2 : RegIx) (f : VReg → VReg → Int) :
    OutcomeWith held coming (binaryToV op rd rs1 rs2 f (s.withAccesses held coming)) (binaryToV op rd rs1 rs2 f s) :=
  RuleWith.complete (.bind fun _ => .writeV rd _) op

theorem shiftToV_withAccesses (op : Opcode) (rd rs1 : RegIx) (f : VReg → Nat → Int) :
    OutcomeWith held coming (shiftToV op rd rs1 f (s.withAccesses held coming)) (shiftToV op rd rs1 f s) :=
  RuleWith.complete (.bind fun _ => .ite (.error _) (.writeV rd _)) op

theorem execDivrem_withAccesses (rd rs1 rs2 rd2 : RegIx) :
    OutcomeWith held coming (execDivrem rd rs1 rs2 rd2 (s.withAccesses held coming)) (execDivrem rd rs1 rs2 rd2 s) :=
  RuleWith.complete (.ite (.error _) (.bind fun _ => .ite (.error _) (.ok rfl))) _

/-- The meaning of a command neither reads nor changes the accesses: each arm follows the form of the command's rule, as
in `exec_commits`. -/
theorem exec_withAccesses (i : Instr) :
    OutcomeWith held coming (exec i (s.withAccesses held coming)) (exec i s) := by
  unfold exec
  cases i with
  | zero rd => exact RuleWith.complete (.writeV rd _) _
  | ldw rd | fromnat rd => exact RuleWith.complete (.ite (.writeV rd _) (.error _)) _
  | stw => exact RuleWith.complete (.bind fun _ => .ok rfl) _
  | getbit => exact RuleWith.complete (.bind fun _ => .ite (.error _) (.writeRes _)) _
  | iszero | signbit | cmp => exact RuleWith.complete (.bind fun _ => .writeRes _) _
  | typeof => exact RuleWith.complete (.writeRes _) _
  | add rd rs1 rs2 | sub rd rs1 rs2 | mul rd rs1 rs2 | and rd rs1 rs2 | or rd rs1 rs2 | xor rd rs1 rs2 =>
    exact binaryToV_withAccesses s held coming _ rd rs1 rs2 _
  | divrem rd rs1 rs2 rd2 => exact execDivrem_withAccesses s held coming rd rs1 rs2 rd2
  | shl rd rs1 | shr rd rs1 => exact shiftToV_withAccesses s held coming _ rd rs1 _
  | not rd | reint rd => exact RuleWith.complete (.bind fun _ => .writeV rd _) _
  | widen rd | narrow rd => exact RuleWith.complete (.bind fun _ => .ite (.error _) (.writeV rd _)) _
  | tonat _ n => exact RuleWith.complete (.bind fun _ => .ite (.writeNative n _) (.error _)) _

theorem commitWord_withAccesses (c : Word) :
    OutcomeWith held coming (commitWord c (s.withAccesses held coming)) (commitWord c s) := by
  cases hd : decode c with
  | ok i => rw [commitWord_legal hd, commitWord_legal hd]; exact exec_withAccesses s held coming i
  | error e =>
    rw [commitWord_illegal hd, commitWord_illegal hd]
    rintro _ ⟨⟩
    rfl

end

end Sys2Proof.Machine
end

section
/-! SUPPORT. A host program without STATUS reads: the machine, which holds the accesses while a command waits, and the
run with every command atomic go through the same states of the block (20_memory.md R71(3); 70_reset_and_hazards.md
R276, R283). -/

namespace Sys2Proof.Machine

/-- Accesses to the window none of which reads STATUS: all of them wait while a command is in flight (R67). -/
def AllHoldable (as : List Access) : Prop := ∀ a ∈ as, inWindow a = true ∧ isStatusRead a = false

/-! ## One step of a host program -/

/-- Issuing the next access keeps the accesses still to be performed, in order. -/
theorem issue_keeps_accesses (held coming : List Access) : held ++ coming.take 1 ++ coming.tail = held ++ coming := by
  rw [List.append_assoc, ← List.drop_one, List.take_append_drop]

theorem takeInput_withAccesses (s : State) (held coming : List Access) :
    (s.withAccesses held coming).takeInput = s.withAccesses (held ++ coming.take 1) coming.tail := by
  cases coming with
  | nil => rfl
  | cons a rest => rfl

section
variable {s : State} {held coming : List Access}

theorem AllHoldable.right (h : AllHoldable (held ++ coming)) : AllHoldable coming :=
  fun a ha => h a (List.mem_append_right held ha)

theorem AllHoldable.issued (h : AllHoldable (held ++ coming)) : AllHoldable (held ++ coming.take 1) := by
  rw [← issue_keeps_accesses] at h
  exact fun a ha => h a (List.mem_append_left _ ha)

/-- The stall holds every access of the program. -/
theorem serveBusy_withAccesses (s : State) (coming : List Access) (h : AllHoldable held) :
    (s.withAccesses held coming).serveBusy = s.withAccesses held coming := by
  cases held with
  | nil => exact serveBusy_nil rfl
  | cons a rest => exact serveBusy_held rfl (h a List.mem_cons_self).2

/-- A step of a host program issues the next access and is then a cycle of the core. -/
theorem step_withAccesses (h : AllHoldable coming) :
    step (s.withAccesses held coming) = coreCycle (s.withAccesses (held ++ coming.take 1) coming.tail) := by
  have hcycle : (s.withAccesses held coming).thisCycle.issue.all inWindow = true ∧
      (s.withAccesses held coming).thisCycle.resetLine = false := by
    cases coming with
    | nil => exact ⟨rfl, rfl⟩
    | cons a rest => exact ⟨(h a List.mem_cons_self).1, rfl⟩
  rw [step_running hcycle.1 hcycle.2, takeInput_withAccesses]

theorem step_withAccesses_idle {a : Access} {held' : List Access} (h : AllHoldable coming) (hidle : s.inflight = none)
    (hissued : held ++ coming.take 1 = a :: held') :
    step (s.withAccesses held coming) = .next ((s.answered a).withAccesses held' coming.tail) := by
  rw [step_withAccesses h, hissued, coreCycle_idle (s := s.withAccesses _ _) hidle, serve_withAccesses]

theorem step_withAccesses_waiting {c : Word} {k : Nat} (h : AllHoldable (held ++ coming))
    (hf : s.inflight = some { word := c, left := k + 1 }) :
    step (s.withAccesses held coming) =
      .next (State.withAccesses { s with inflight := some { word := c, left := k } } (held ++ coming.take 1)
        coming.tail) := by
  rw [step_withAccesses h.right, coreCycle_waiting (s := s.withAccesses _ _) hf, serveBusy_withAccesses s _ h.issued]
  rfl

theorem step_withAccesses_committing {c : Word} {u : State} (h : AllHoldable (held ++ coming))
    (hf : s.inflight = some { word := c, left := 0 }) (hu : commitWord c s = .next u) :
    step (s.withAccesses held coming) = .next (u.withAccesses (held ++ coming.take 1) coming.tail) := by
  rw [step_withAccesses h.right, coreCycle_committing (s := s.withAccesses _ _) hf, serveBusy_withAccesses s _ h.issued]
  exact commitWord_withAccesses s _ _ c u hu

end

/-! ## Runs -/

/-- Some run from the block `s` with the accesses `held` and `coming` ends in an idle block `u` with `as` of them still
to be performed, in order. -/
def RunsTo (s : State) (held coming : List Access) (u : State) (as : List Access) : Prop :=
  u.inflight = none ∧ ∃ n held' coming', held' ++ coming' = as ∧
    Host.Core.run core n (s.withAccesses held coming) = .next (u.withAccesses held' coming')

theorem RunsTo.refl {s : State} (h : s.inflight = none) (held coming : List Access) :
    RunsTo s held coming s (held ++ coming) :=
  ⟨h, 0, held, coming, rfl, rfl⟩

theorem RunsTo.of_step {s s' u : State} {held coming held' coming' as : List Access}
    (hstep : step (s.withAccesses held coming) = .next (s'.withAccesses held' coming'))
    (h : RunsTo s' held' coming' u as) : RunsTo s held coming u as := by
  obtain ⟨hidle, n, held'', coming'', has, hrun⟩ := h
  exact ⟨hidle, n + 1, held'', coming'', has, (run_succ_next n hstep).trans hrun⟩

/-- The word in flight commits with all accesses still to be performed, however many cycles it waits. -/
theorem runs_to_commit (c : Word) (k : Nat) (s : State) (held coming : List Access)
    (h : AllHoldable (held ++ coming)) (hf : s.inflight = some { word := c, left := k }) :
    ∃ u, commitWord c s = .next u ∧ RunsTo s held coming u (held ++ coming) := by
  induction k generalizing s held coming with
  | zero =>
    obtain ⟨ds, u, hu, hidle, -, -⟩ := commitWord_commits c s
    have hstep := step_withAccesses_committing h hf hu
    rw [← issue_keeps_accesses]
    exact ⟨u, hu, .of_step hstep (.refl hidle _ _)⟩
  | succ k ih =>
    have hstep := step_withAccesses_waiting h hf
    rw [← issue_keeps_accesses] at h ⊢
    obtain ⟨u, hu, hruns⟩ := ih { s with inflight := some { word := c, left := k } } _ _ h rfl
    rw [commitWord_setInflight] at hu
    exact ⟨u, hu, .of_step hstep hruns⟩

/-- The block settles, whether a command is in flight or not. -/
theorem runs_to_settled (s : State) (held coming : List Access) (h : AllHoldable (held ++ coming)) :
    ∃ u, settle (s.withAccesses [] []) = .next (u.withAccesses [] []) ∧ RunsTo s held coming u (held ++ coming) := by
  match hf : s.inflight with
  | none => exact ⟨s, by simp [settle, hf], .refl hf _ _⟩
  | some ⟨c, k⟩ =>
    obtain ⟨u, hu, hruns⟩ := runs_to_commit c k s held coming h hf
    exact ⟨u, by simpa [settle, hf] using commitWord_withAccesses s [] [] c u hu, hruns⟩

/-- The oldest access and the command it may issue take the machine where `atomicAccess` takes the block. -/
theorem runs_atomicAccess {s : State} {held coming : List Access} {a : Access} {rest : List Access}
    (hidle : s.inflight = none) (heq : held ++ coming = a :: rest) (h : AllHoldable (a :: rest)) :
    ∃ u, atomicAccess (s.withAccesses [] []) a = .next (u.withAccesses [] []) ∧ RunsTo s held coming u rest := by
  obtain ⟨held', hissued⟩ : ∃ held', held ++ coming.take 1 = a :: held' := by
    cases held with
    | nil => cases heq; exact ⟨[], rfl⟩
    | cons b held => cases heq; exact ⟨_, rfl⟩
  have hrest : held' ++ coming.tail = rest := by
    have hall := issue_keeps_accesses held coming
    rw [hissued, heq] at hall
    exact List.tail_eq_of_cons_eq hall
  have hstep := step_withAccesses_idle (AllHoldable.right (heq ▸ h)) hidle hissued
  obtain ⟨u, hu, hruns⟩ := runs_to_settled (s.answered a) held' coming.tail
    (fun b hb => h b (List.mem_cons_of_mem a (hrest ▸ hb)))
  rw [hrest] at hruns
  exact ⟨u, by rw [atomicAccess_eq, answered_withAccesses, hu], .of_step hstep hruns⟩

/-- The machine goes from access to access where `atomicRun` does. -/
theorem runs_atomicRun (as : List Access) {s : State} {held coming : List Access} (hidle : s.inflight = none)
    (heq : held ++ coming = as) (h : AllHoldable as) :
    ∃ u, atomicRun as (s.withAccesses [] []) = .next (u.withAccesses [] []) ∧ RunsTo s held coming u [] := by
  induction as generalizing s held coming with
  | nil => exact ⟨s, rfl, heq ▸ .refl hidle held coming⟩
  | cons a rest ih =>
    obtain ⟨v, hv, hidle', n, held', coming', hrest, hrun⟩ := runs_atomicAccess hidle heq h
    obtain ⟨u, hu, hdone, m, held'', coming'', hnil, hrun'⟩ :=
      ih hidle' hrest fun b hb => h b (List.mem_cons_of_mem a hb)
    exact ⟨u, by rw [atomicRun, hv]; exact hu, hdone, n + m, held'', coming'', hnil, (run_add m hrun).trans hrun'⟩

/-- Settles O54: an idle state is its block with nothing pending, to which the program is still to come. -/
theorem hostProgramsRunAtomically : Obligations.HostProgramsRunAtomically := by
  intro s p hidle hp hin hall
  obtain ⟨u, hatomic, hdone, n, held, coming, hnil, hrun⟩ := runs_atomicRun p (held := []) hidle rfl hall
  obtain ⟨rfl, rfl⟩ := List.append_eq_nil_iff.mp hnil
  have hstart : s.withAccesses [] p = { s with inputs := hostProgram p } := by rw [State.withAccesses, ← hp]
  rw [State.withAccesses_nil hp hin] at hatomic
  rw [hstart] at hrun
  exact ⟨n, _, hatomic, hrun, by simp [State.runEnded, hostProgram, busy, hdone]⟩

end Sys2Proof.Machine
end

section
/-! SUPPORT. The decoder and the encoder are inverse: the row a word selects, the command in its fields, and both round
trips (30_encoding.md R91, R96 to R101). -/

namespace Sys2Proof

open Machine (rowOf SelectsRow)

/-! ## The opcode map -/

/-- A command of each assigned opcode, its operands 0 (30_encoding.md R96); none of an unassigned one (R99). -/
def commandAt (op : Opcode) : Option Instr :=
  match op with
  | 0x01 => some (.zero 0 0 false)
  | 0x02 => some (.ldw 0 0 false 0)
  | 0x03 => some (.stw 0)
  | 0x04 => some (.getbit 0)
  | 0x05 => some (.iszero 0)
  | 0x06 => some (.signbit 0)
  | 0x07 => some (.typeof 0)
  | 0x08 => some (.add 0 0 0)
  | 0x09 => some (.sub 0 0 0)
  | 0x0A => some (.mul 0 0 0)
  | 0x0B => some (.divrem 0 0 0 0)
  | 0x0C => some (.shl 0 0)
  | 0x0D => some (.shr 0 0)
  | 0x0E => some (.and 0 0 0)
  | 0x0F => some (.or 0 0 0)
  | 0x10 => some (.xor 0 0 0)
  | 0x11 => some (.not 0 0)
  | 0x12 => some (.cmp 0 0)
  | 0x18 => some (.widen 0 0 0)
  | 0x19 => some (.narrow 0 0 0)
  | 0x1A => some (.reint 0 0)
  | 0x1C => some (.fromnat 0 0 false .n32)
  | 0x1D => some (.tonat 0 .n32)
  | _ => none

theorem opcodeOf_commandAt : ∀ op, ∀ i ∈ commandAt op, opcodeOf i = op := by decide

/-- A command's row is the row of its opcode (30_encoding.md R97). -/
theorem commandAt_opcodeOf (i : Instr) : (commandAt (opcodeOf i)).map rowOf = some (rowOf i) := by
  cases i <;> rfl

theorem rowOf_eq_of_opcodeOf_eq {i j : Instr} (h : opcodeOf i = opcodeOf j) : rowOf i = rowOf j := by
  have hrow := commandAt_opcodeOf i
  rw [h, commandAt_opcodeOf] at hrow
  exact (Option.some.inj hrow).symm

theorem unassigned_iff_commandAt_eq_none (op : Opcode) : (∀ i, opcodeOf i ≠ op) ↔ commandAt op = none := by
  constructor
  · intro h
    exact Option.eq_none_iff_forall_not_mem.mpr fun i hi => h i (opcodeOf_commandAt op i hi)
  · rintro h i rfl
    have hrow := commandAt_opcodeOf i
    rw [h] at hrow
    cases hrow

/-! ## The rows -/

/-- A masked comparison of words is one of their fields (30_encoding.md R91). -/
theorem and_eq_iff_fields (c mask row : Word) : c &&& mask = row ↔
    opField c &&& opField mask = opField row ∧ rdField c &&& rdField mask = rdField row ∧
    rs1Field c &&& rs1Field mask = rs1Field row ∧ rs2Field c &&& rs2Field mask = rs2Field row ∧
    rd2Field c &&& rd2Field mask = rd2Field row ∧ wcField c &&& wcField mask = wcField row ∧
    (sgField c && sgField mask) = sgField row ∧ cntField c &&& cntField mask = cntField row := by
  rw [← packFields_inj, ← packFields_and, packFields_fields, packFields_fields, packFields_fields]

/-- The fields a command reserves are 0 in the word (30_encoding.md R97, R98). -/
def ReservedZero (c : Word) : Instr → Prop
  | .zero _ _ _ => rs1Field c = 0 ∧ rs2Field c = 0 ∧ rd2Field c = 0 ∧ cntField c = 0
  | .ldw _ _ _ _ | .fromnat _ _ _ _ => rs1Field c = 0 ∧ rs2Field c = 0 ∧ rd2Field c = 0
  | .stw _ | .getbit _ | .iszero _ | .signbit _ | .typeof _ =>
    rdField c = 0 ∧ rs2Field c = 0 ∧ rd2Field c = 0 ∧ wcField c = 0 ∧ sgField c = false ∧ cntField c = 0
  | .tonat _ _ => rdField c = 0 ∧ rs2Field c = 0 ∧ rd2Field c = 0 ∧ wcField c = 0 ∧ sgField c = false
  | .add _ _ _ | .sub _ _ _ | .mul _ _ _ | .and _ _ _ | .or _ _ _ | .xor _ _ _ =>
    rd2Field c = 0 ∧ wcField c = 0 ∧ sgField c = false ∧ cntField c = 0
  | .divrem _ _ _ _ => wcField c = 0 ∧ sgField c = false ∧ cntField c = 0
  | .shl _ _ | .shr _ _ | .not _ _ | .reint _ _ =>
    rs2Field c = 0 ∧ rd2Field c = 0 ∧ wcField c = 0 ∧ sgField c = false ∧ cntField c = 0
  | .cmp _ _ => rdField c = 0 ∧ rd2Field c = 0 ∧ wcField c = 0 ∧ sgField c = false ∧ cntField c = 0
  | .widen _ _ _ | .narrow _ _ _ => rs2Field c = 0 ∧ rd2Field c = 0 ∧ sgField c = false ∧ cntField c = 0

theorem and_allOnes_op (x : Opcode) : x &&& 63#6 = x := BitVec.and_allOnes
theorem and_allOnes_reg (x : RegIx) : x &&& 15#4 = x := BitVec.and_allOnes
theorem and_allOnes_wc (x : WidthCode) : x &&& 31#5 = x := BitVec.and_allOnes

/-- A word selects a command's row iff its op is the command's and its reserved fields are 0: under each field the mask
is all ones or 0. (The row is put in first: the fields are slow to evaluate on a projection of it.) -/
theorem selectsRow_iff (c : Word) (i : Instr) :
    SelectsRow c (rowOf i) ↔ opField c = opcodeOf i ∧ ReservedZero c i := by
  rw [SelectsRow, and_eq_iff_fields]
  cases i <;> simp only [rowOf, ReservedZero, opcodeOf] <;>
    simp only [opField, rdField, rs1Field, rs2Field, rd2Field, wcField, sgField, cntField, and_allOnes_op,
      and_allOnes_reg, and_allOnes_wc, BitVec.ofNat_eq_ofNat, BitVec.reduceExtractLsb', BitVec.reduceGetLsb,
      BitVec.and_zero, Bool.and_true, Bool.and_false, and_true, true_and]

/-! ## The decoder -/

/-- What the decoder answers for a word that selects the row of a command: the command of that row with the operands in
the word's fields, or the breach of 30_encoding.md R100. -/
def commandIn (c : Word) : Instr → Except DecodeError Instr
  | .zero _ _ _ => .ok (.zero (rdField c) (wcField c) (sgField c))
  | .ldw _ _ _ _ => .ok (.ldw (rdField c) (wcField c) (sgField c) (cntField c))
  | .stw _ => .ok (.stw (rs1Field c))
  | .getbit _ => .ok (.getbit (rs1Field c))
  | .iszero _ => .ok (.iszero (rs1Field c))
  | .signbit _ => .ok (.signbit (rs1Field c))
  | .typeof _ => .ok (.typeof (rs1Field c))
  | .add _ _ _ => .ok (.add (rdField c) (rs1Field c) (rs2Field c))
  | .sub _ _ _ => .ok (.sub (rdField c) (rs1Field c) (rs2Field c))
  | .mul _ _ _ => .ok (.mul (rdField c) (rs1Field c) (rs2Field c))
  | .divrem _ _ _ _ =>
    if rdField c = rd2Field c then .error .sameDestinations
    else .ok (.divrem (rdField c) (rs1Field c) (rs2Field c) (rd2Field c))
  | .shl _ _ => .ok (.shl (rdField c) (rs1Field c))
  | .shr _ _ => .ok (.shr (rdField c) (rs1Field c))
  | .and _ _ _ => .ok (.and (rdField c) (rs1Field c) (rs2Field c))
  | .or _ _ _ => .ok (.or (rdField c) (rs1Field c) (rs2Field c))
  | .xor _ _ _ => .ok (.xor (rdField c) (rs1Field c) (rs2Field c))
  | .not _ _ => .ok (.not (rdField c) (rs1Field c))
  | .cmp _ _ => .ok (.cmp (rs1Field c) (rs2Field c))
  | .widen _ _ _ => .ok (.widen (rdField c) (rs1Field c) (wcField c))
  | .narrow _ _ _ => .ok (.narrow (rdField c) (rs1Field c) (wcField c))
  | .reint _ _ => .ok (.reint (rdField c) (rs1Field c))
  | .fromnat _ _ _ _ =>
    match nativeOfCnt (cntField c) with
    | some n => .ok (.fromnat (rdField c) (wcField c) (sgField c) n)
    | none => .error .nativeWidth
  | .tonat _ _ =>
    match nativeOfCnt (cntField c) with
    | some n => .ok (.tonat (rs1Field c) n)
    | none => .error .nativeWidth

/-- The decoder looks a word up by its op field, and then asks for the row of that opcode. -/
theorem decode_of_opField {c : Word} {i : Instr} (h : opField c = opcodeOf i) :
    decode c = selectRow c (rowOf i).1 (rowOf i).2 (commandIn c i) := by
  unfold decode
  rw [h]
  cases i <;> rfl

theorem decode_of_selectsRow {c : Word} {i : Instr} (h : SelectsRow c (rowOf i)) : decode c = commandIn c i := by
  rw [decode_of_opField ((selectsRow_iff c i).mp h).1]
  exact if_pos h

/-- A word that decodes selects the row of its command. -/
theorem selectsRow_of_decode {c : Word} {i : Instr} (h : decode c = .ok i) : SelectsRow c (rowOf i) := by
  rw [decode_of_opField (opcodeOf_decode h).symm, selectRow] at h
  split at h
  · assumption
  · cases h

theorem packFields_eq_iff (op : Opcode) (rd rs1 rs2 rd2 : RegIx) (wc : WidthCode) (sg : Bool) (cnt : BitVec 4)
    (c : Word) : packFields op rd rs1 rs2 rd2 wc sg cnt = c ↔
      opField c = op ∧ rdField c = rd ∧ rs1Field c = rs1 ∧ rs2Field c = rs2 ∧ rd2Field c = rd2 ∧ wcField c = wc ∧
        sgField c = sg ∧ cntField c = cnt := by
  conv_lhs => rw [← packFields_fields c, eq_comm]
  exact packFields_inj ..

theorem commandIn_divrem_iff (c : Word) (rd rs1 rs2 rd2 : RegIx) :
    commandIn c (.divrem rd rs1 rs2 rd2) = .ok (.divrem rd rs1 rs2 rd2) ↔
      rd ≠ rd2 ∧ rdField c = rd ∧ rs1Field c = rs1 ∧ rs2Field c = rs2 ∧ rd2Field c = rd2 := by
  unfold commandIn
  split_ifs with h
  · simp only [false_iff]
    rintro ⟨hne, rfl, -, -, rfl⟩
    exact hne h
  · simp only [Except.ok.injEq, Instr.divrem.injEq]
    refine ⟨fun heq => ⟨?_, heq⟩, fun heq => heq.2⟩
    obtain ⟨rfl, -, -, rfl⟩ := heq
    exact h

theorem commandIn_fromnat_iff (c : Word) (rd : RegIx) (wc : WidthCode) (sg : Bool) (n : NativeWidth) :
    commandIn c (.fromnat rd wc sg n) = .ok (.fromnat rd wc sg n) ↔
      rdField c = rd ∧ wcField c = wc ∧ sgField c = sg ∧ cntField c = cntOfNative n := by
  rw [← nativeOfCnt_eq_some, commandIn]
  cases nativeOfCnt (cntField c) <;> simp

theorem commandIn_tonat_iff (c : Word) (rs1 : RegIx) (n : NativeWidth) :
    commandIn c (.tonat rs1 n) = .ok (.tonat rs1 n) ↔ rs1Field c = rs1 ∧ cntField c = cntOfNative n := by
  rw [← nativeOfCnt_eq_some, commandIn]
  cases nativeOfCnt (cntField c) <;> simp

/-- The word of a well-formed command is the one word that selects its row and has its operands in the fields. -/
theorem encode_eq_iff (i : Instr) (c : Word) :
    encode i = c ∧ i.wellFormed = true ↔ SelectsRow c (rowOf i) ∧ commandIn c i = .ok i := by
  rw [selectsRow_iff]
  cases i with
  | divrem rd rs1 rs2 rd2 =>
    simp only [encode, packFields_eq_iff, ReservedZero, commandIn_divrem_iff, Instr.wellFormed, bne_iff_ne]
    tauto
  | fromnat rd wc sg n =>
    simp only [encode, packFields_eq_iff, ReservedZero, commandIn_fromnat_iff, Instr.wellFormed]
    tauto
  | tonat rs1 n =>
    simp only [encode, packFields_eq_iff, ReservedZero, commandIn_tonat_iff, Instr.wellFormed]
    tauto
  | _ =>
    simp [encode, packFields_eq_iff, ReservedZero, commandIn, Instr.wellFormed]
    tauto

/-- The decoder answers a command exactly for its word, and only if it is well-formed. -/
theorem decode_eq_ok_iff (c : Word) (i : Instr) : decode c = .ok i ↔ encode i = c ∧ i.wellFormed = true := by
  rw [encode_eq_iff]
  constructor
  · intro h
    have hrow := selectsRow_of_decode h
    exact ⟨hrow, decode_of_selectsRow hrow ▸ h⟩
  · rintro ⟨hrow, hcmd⟩
    rw [decode_of_selectsRow hrow, hcmd]

/-- Settles O2: the decoder answers a command for its word (`decode_eq_ok_iff`). -/
theorem decodeOfEncodeIsIdentity : Obligations.DecodeOfEncodeIsIdentity := fun i hwf =>
  (decode_eq_ok_iff (encode i) i).mpr ⟨rfl, hwf⟩

/-- Settles O3: the decoder answers a command for its word only (`decode_eq_ok_iff`). -/
theorem encodeOfDecodeIsIdentity : Obligations.EncodeOfDecodeIsIdentity := fun c i => (decode_eq_ok_iff c i).mp

/-! ## The legal words -/

/-- What 30_encoding.md R100 forbids of a word. -/
def BreaksR100 (c : Word) : Prop :=
  (opField c = 0x0B ∧ rdField c = rd2Field c) ∨
    ((opField c = 0x1C ∨ opField c = 0x1D) ∧ cntField c ≠ 1 ∧ cntField c ≠ 2)

theorem nativeOfCnt_eq_none {cnt : BitVec 4} : nativeOfCnt cnt = none ↔ cnt ≠ 1 ∧ cnt ≠ 2 := by
  unfold nativeOfCnt
  split_ifs <;> simp_all

/-- Of the words that select a row, the decoder refuses those that break R100. -/
theorem commandIn_isOk_iff {c : Word} {i : Instr} (h : opField c = opcodeOf i) :
    (∃ j, commandIn c i = .ok j) ↔ ¬BreaksR100 c := by
  rw [BreaksR100, ← nativeOfCnt_eq_none, h]
  cases i with
  | divrem => by_cases hd : rdField c = rd2Field c <;> simp [commandIn, opcodeOf, hd]
  | fromnat | tonat => cases hn : nativeOfCnt (cntField c) <;> simp [commandIn, opcodeOf, hn]
  | _ => simp [commandIn, opcodeOf]

theorem legal_iff (c : Word) : (∃ i, decode c = .ok i) ↔ (∃ i, SelectsRow c (rowOf i)) ∧ ¬BreaksR100 c := by
  constructor
  · rintro ⟨i, h⟩
    have hrow := selectsRow_of_decode h
    exact ⟨⟨i, hrow⟩, (commandIn_isOk_iff (opcodeOf_decode h).symm).mp ⟨i, decode_of_selectsRow hrow ▸ h⟩⟩
  · rintro ⟨⟨i, hrow⟩, hkept⟩
    rw [decode_of_selectsRow hrow]
    exact (commandIn_isOk_iff ((selectsRow_iff c i).mp hrow).1).mpr hkept

/-- Settles O4, by the row of the op field (`legal_iff`). -/
theorem legalWordsAreTheTableRows : Obligations.LegalWordsAreTheTableRows := by
  refine fun c => ⟨?_, fun i => selectsRow_of_decode, fun i j hi hj => ?_⟩
  · rw [← not_or]
    exact legal_iff c
  · have hopi := ((selectsRow_iff c i).mp hi).1
    have hopj := ((selectsRow_iff c j).mp hj).1
    exact rowOf_eq_of_opcodeOf_eq (hopi.symm.trans hopj)

/-- Settles O1, by evaluating the decoder on each word. -/
theorem specWordsDecode : Obligations.SpecWordsDecode := by
  unfold Obligations.SpecWordsDecode
  decide

end Sys2Proof
end

section
/-! SUPPORT. Illegal words at the step: each commits with IllegalCommand and changes nothing else (30_encoding.md R98 to
R100; 60_exceptions.md R245). -/

namespace Sys2Proof.Machine

theorem errCode_ne_zero (e : ErrKind) : errCode e ≠ 0 := by cases e <;> decide

/-- The error completion changes STATUS only (60_exceptions.md R245). -/
theorem fail_failedWith (op : Opcode) (e : ErrKind) (s : State) : FailedWith op e s (s.fail op e) := by
  have herr : errBit (s.fail op e) = true := bne_iff_ne.mpr (errCode_ne_zero e)
  exact ⟨rfl, herr, rfl, rfl, rfl, fun j _ => State.readV_fail s op e j, rfl, rfl, rfl, rfl, rfl, rfl, rfl⟩

theorem step_willCommit {s : State} {c : Word} (h : WillCommit s c) : step s = commitWord c s.atCommit := by
  obtain ⟨hflight, hr, hw⟩ := h
  rw [step_running hw hr, coreCycle_committing (s := s.takeInput) hflight, State.atCommit]

/-- A word that does not decode fails at its commit. -/
theorem step_illegal {s : State} {c : Word} (h : WillCommit s c) (hillegal : ¬∃ i, decode c = .ok i) :
    ∃ t, step s = .next t ∧ FailedWith (opField c) .illegalCommand s.atCommit t := by
  cases hd : decode c with
  | ok i => exact absurd ⟨i, hd⟩ hillegal
  | error e => exact ⟨_, (step_willCommit h).trans (commitWord_illegal hd _), fail_failedWith _ _ _⟩

/-- Settles O5: a word that decodes selects the row of its op field. -/
theorem reservedFieldIsIllegal : Obligations.ReservedFieldIsIllegal := by
  refine fun s c i hcommit hop hrow => step_illegal hcommit ?_
  rintro ⟨j, hdecode⟩
  have hsame : rowOf j = rowOf i := rowOf_eq_of_opcodeOf_eq ((opcodeOf_decode hdecode).trans hop)
  exact hrow (hsame ▸ selectsRow_of_decode hdecode)

/-- The opcodes 30_encoding.md R99 lists are those of no command. -/
theorem commandAt_eq_none_iff : ∀ op : Opcode, commandAt op = none ↔
    op.toNat = 0x00 ∨ (0x13 ≤ op.toNat ∧ op.toNat ≤ 0x17) ∨ op.toNat = 0x1B ∨ 0x1E ≤ op.toNat := by decide

/-- Settles O6: a word that decodes has the opcode of its command. -/
theorem unassignedOpcodeIsIllegal : Obligations.UnassignedOpcodeIsIllegal := by
  refine ⟨fun s c hcommit hop => step_illegal hcommit ?_, fun op => ?_⟩
  · rintro ⟨i, hdecode⟩
    exact hop i (opcodeOf_decode hdecode)
  · rw [unassigned_iff_commandAt_eq_none, commandAt_eq_none_iff]

/-- LDW with a count that is not the word count of its type (40_wordvector.md R122). -/
theorem execLdw_wrongCount {wc : WidthCode} {cnt : BitVec 4} (h : cnt.toNat ≠ wordsOf wc) (rd : RegIx) (sg : Bool)
    (s : State) : execLdw rd wc sg cnt s = .next (s.fail 0x02 .invalidWidth) := by
  simp [execLdw, h, opcodeOf]

/-- Settles O7: the decoder refuses what R100 forbids (`legal_iff`), and LDW's word is the one its encoding gives. -/
theorem perCommandLegality : Obligations.PerCommandLegality := by
  refine ⟨fun s c hcommit hbreaks => step_illegal hcommit ?_, fun rd wc sg cnt => ?_, fun s rd wc sg cnt hcnt => ?_⟩
  · exact fun hlegal => ((legal_iff c).mp hlegal).2 hbreaks
  · exact decodeOfEncodeIsIdentity (.ldw rd wc sg cnt) rfl
  · exact ⟨_, execLdw_wrongCount hcnt rd sg s, fail_failedWith _ _ _⟩

end Sys2Proof.Machine
end

section
/-! SUPPORT. The pseudo-instructions of a host program, with every command atomic (30_encoding.md R103; 20_memory.md
R71(3)). -/

namespace Sys2Proof.Machine

/-! ## Accesses, one after another -/

/-- The state an atomic command runs in: its CMD write has been performed and answered. -/
def State.issued (s : State) (i : Instr) : State :=
  { s with cmd := encode i, responses := s.responses ++ [.done] }

@[simp] theorem State.issued_readV (s : State) (i : Instr) (j : RegIx) : (s.issued i).readV j = s.readV j := rfl
@[simp] theorem State.issued_data (s : State) (i : Instr) : (s.issued i).data = s.data := rfl
@[simp] theorem State.issued_arg (s : State) (i : Instr) : (s.issued i).arg = s.arg := rfl
@[simp] theorem State.issued_res (s : State) (i : Instr) : (s.issued i).res = s.res := rfl

/-- An atomic command is its meaning, run at its CMD write. -/
theorem atomicAccess_hostCommand {i : Instr} (hwf : i.wellFormed = true) (s : State) :
    atomicAccess s (hostCommand i) = exec i (s.issued i) := by
  have hdecode : decode (encode i) = .ok i := decodeOfEncodeIsIdentity i hwf
  rw [atomicAccess_eq, State.answered, hostCommand, perform_hostWrite, ← exec_setInflight
    (some { word := encode i, left := Config.lat (encode i) s.v s.arg s.data - 1 }), ← commitWord_legal hdecode]
  rfl

theorem answered_hostWrite (s : State) (r : WinReg) (x : Word) :
    s.answered (hostWrite r x) = { writeReg s r x with responses := (writeReg s r x).responses ++ [.done] } := by
  rw [State.answered, perform_hostWrite]

theorem writeReg_idle {s : State} {r : WinReg} (hidle : s.inflight = none) (hr : r ≠ .cmd) (x : Word) :
    (writeReg s r x).inflight = none := by
  cases r with
  | cmd => exact absurd rfl hr
  | ctrl =>
    cases hx : x.getLsbD 0 with
    | true => rw [writeReg_ctrl_set hx, State.resetBlock_inflight]
    | false => rw [writeReg_ctrl_clear hx, hidle]
  | _ => exact hidle

theorem answered_hostWrite_idle {s : State} {r : WinReg} (hidle : s.inflight = none) (hr : r ≠ .cmd) (x : Word) :
    (s.answered (hostWrite r x)).inflight = none := by
  rw [answered_hostWrite]
  exact writeReg_idle hidle hr x

/-- An idle machine performs a write to another register than CMD, and nothing else. -/
theorem atomicAccess_hostWrite {s : State} {r : WinReg} (hidle : s.inflight = none) (hr : r ≠ .cmd) (x : Word) :
    atomicAccess s (hostWrite r x) = .next (s.answered (hostWrite r x)) := by
  rw [atomicAccess_eq, settle, answered_hostWrite_idle hidle hr x]

theorem atomicRun_cons {s t : State} {a : Access} (h : atomicAccess s a = .next t) (rest : List Access) :
    atomicRun (a :: rest) s = atomicRun rest t := by
  rw [atomicRun, h]

theorem atomicRun_hostCommand {i : Instr} {s t : State} (hwf : i.wellFormed = true) (h : exec i (s.issued i) = .next t)
    (rest : List Access) : atomicRun (hostCommand i :: rest) s = atomicRun rest t :=
  atomicRun_cons ((atomicAccess_hostCommand hwf s).trans h) rest

/-! ## Commands that succeed -/

section
variable {s : State} {rd rs1 : RegIx}

theorem exec_or_ok {rs2 : RegIx} (h1 : (s.readV rs1).valid = true) (h2 : (s.readV rs2).valid = true)
    (h : (s.readV rs1).wc = (s.readV rs2).wc ∧ (s.readV rs1).sg = (s.readV rs2).sg) :
    exec (.or rd rs1 rs2) s =
      .next ((s.writeV rd (mk (s.readV rs1).wc (s.readV rs1).sg
        ((pat (s.readV rs1) ||| pat (s.readV rs2) : Nat) : Int))).succeed 0x0F) := by
  rw [exec, execOr, binaryToV_ok h1 h2 h, opcodeOf]

theorem exec_sub_ok {rs2 : RegIx} (h1 : (s.readV rs1).valid = true) (h2 : (s.readV rs2).valid = true)
    (h : (s.readV rs1).wc = (s.readV rs2).wc ∧ (s.readV rs1).sg = (s.readV rs2).sg) :
    exec (.sub rd rs1 rs2) s =
      .next ((s.writeV rd (mk (s.readV rs1).wc (s.readV rs1).sg (val (s.readV rs1) - val (s.readV rs2)))).succeed
        0x09) := by
  rw [exec, execSub, binaryToV_ok h1 h2 h, opcodeOf]

theorem exec_zero_ok {wc : WidthCode} {sg : Bool} :
    exec (.zero rd wc sg) s = .next ((s.writeV rd (mk wc sg 0)).succeed 0x01) := by
  rw [exec, execZero, complete_ok, opcodeOf]

theorem exec_widen_ok {wc : WidthCode} (hv : (s.readV rs1).valid = true) (hw : widthOf (s.readV rs1).wc ≤ widthOf wc) :
    exec (.widen rd rs1 wc) s =
      .next ((s.writeV rd (mk wc (s.readV rs1).sg (val (s.readV rs1)))).succeed 0x18) := by
  simp [exec, execWiden, src_valid hv, not_lt.mpr hw, opcodeOf]

theorem exec_narrow_ok {wc : WidthCode} (hv : (s.readV rs1).valid = true) (hw : widthOf wc ≤ widthOf (s.readV rs1).wc) :
    exec (.narrow rd rs1 wc) s =
      .next ((s.writeV rd (mk wc (s.readV rs1).sg (pat (s.readV rs1)))).succeed 0x19) := by
  simp [exec, execNarrow, src_valid hv, not_lt.mpr hw, opcodeOf]

theorem exec_reint_ok (hv : (s.readV rs1).valid = true) :
    exec (.reint rd rs1) s =
      .next ((s.writeV rd (mk (s.readV rs1).wc (!(s.readV rs1).sg) (pat (s.readV rs1)))).succeed 0x1A) := by
  simp [exec, execReint, src_valid hv, opcodeOf]

theorem exec_fromnat_ok {wc : WidthCode} {sg : Bool} {n : NativeWidth}
    (h : inRange (nativeValue s n sg) (widthOf wc) sg = true) :
    exec (.fromnat rd wc sg n) s = .next ((s.writeV rd (mk wc sg (nativeValue s n sg))).succeed 0x1C) := by
  simp [exec, execFromnat, h, opcodeOf]

end

/-! ## MOV -/

/-- A canonical value is what `mk` stores for its pattern. -/
theorem mk_pat_of_canonical {r : VReg} (hv : r.valid = true) (hc : Canonical r) : mk r.wc r.sg (pat r) = r := by
  rw [← mk_val_eq_mk_pat]
  exact (hc hv).symm

theorem pseudoMov_copies {s : State} {a : RegIx} (d : RegIx) (hv : (s.readV a).valid = true)
    (hc : Canonical (s.readV a)) : ∃ t, atomicRun (pseudoMov d a) s = .next t ∧ t.readV d = s.readV a := by
  refine ⟨_, atomicRun_hostCommand rfl (exec_or_ok hv hv ⟨rfl, rfl⟩) [], ?_⟩
  rw [State.readV_succeed, State.readV_writeV_self, State.issued_readV, Nat.or_self]
  exact mk_pat_of_canonical hv hc

/-! ## LI -/

theorem dataPattern_two (s : State) : dataPattern s 2 = s.data[0].toNat + 2 ^ 32 * s.data[1].toNat := by
  have hwords : s.data.toList.take 2 = [s.data[0], s.data[1]] := by
    apply List.ext_getElem
    · simp
    · intro j hj _
      have : j < 2 := by simpa using hj
      interval_cases j <;> simp
  rw [dataPattern, hwords]
  simp [wordsNat]

/-- The two words of a 64-bit integer, as numbers (20_memory.md R63). -/
theorem toNat_words (imm : BitVec 64) :
    (imm.extractLsb' 0 32).toNat + 2 ^ 32 * (imm.extractLsb' 32 32).toNat = imm.toNat := by
  have := imm.isLt
  simp only [BitVec.extractLsb'_toNat, Nat.shiftRight_eq_div_pow]
  omega

/-- A 64-bit integer in DATA, read with either signedness (43_conversion.md R219). -/
theorem nativeValue_n64 {s : State} {imm : BitVec 64} (h : dataPattern s 2 = imm.toNat) (sg : Bool) :
    nativeValue s .n64 sg = if sg then imm.toInt else imm.toNat := by
  rw [nativeValue, nativeWords, nativeBits, h, sval_toNat (by decide)]

/-- The state LI's FROMNAT runs in, from `s`: both words of the integer are in DATA. -/
def State.liStaged (s : State) (imm : BitVec 64) : State :=
  (s.answered (hostWrite (.data 0) (imm.extractLsb' 0 32))).answered (hostWrite (.data 1) (imm.extractLsb' 32 32))

theorem dataPattern_liStaged (s : State) (imm : BitVec 64) : dataPattern (s.liStaged imm) 2 = imm.toNat := by
  rw [dataPattern_two, ← toNat_words, State.liStaged, answered_hostWrite, answered_hostWrite]
  simp [writeReg]

theorem pseudoLi_loads {s : State} (hidle : s.inflight = none) (d : RegIx) {wc : WidthCode} {sg : Bool}
    {imm : BitVec 64} {x : Int} (hx : (if sg then imm.toInt else imm.toNat) = x)
    (hrange : inRange x (widthOf wc) sg = true) :
    ∃ t, atomicRun (pseudoLi d wc sg imm) s = .next t ∧ t.readV d = mk wc sg x := by
  have hfirst := atomicAccess_hostWrite (r := .data 0) hidle nofun (imm.extractLsb' 0 32)
  have hsecond := atomicAccess_hostWrite (r := .data 1)
    (answered_hostWrite_idle (r := .data 0) hidle nofun (imm.extractLsb' 0 32)) nofun (imm.extractLsb' 32 32)
  have hnative : nativeValue ((s.liStaged imm).issued (.fromnat d wc sg .n64)) .n64 sg = x :=
    (nativeValue_n64 (dataPattern_liStaged s imm) sg).trans hx
  rw [← hnative] at hrange
  rw [pseudoLi, atomicRun_cons hfirst, atomicRun_cons hsecond]
  refine ⟨_, atomicRun_hostCommand rfl (exec_fromnat_ok hrange) [], ?_⟩
  rw [State.readV_succeed, State.readV_writeV_self, hnative]

/-! ## NEG -/

theorem val_mk_zero (wc : WidthCode) (sg : Bool) : val (mk wc sg 0) = 0 := by
  have htop : (1 : Int) ≤ 2 ^ (widthOf wc - 1) := one_le_pow₀ (by decide)
  have hall : (1 : Int) ≤ 2 ^ widthOf wc := one_le_pow₀ (by decide)
  apply val_mk_of_inRange
  cases sg <;> simp [inRange] <;> omega

/-- The scratch register takes a zero of the operand's type, and the operand is subtracted from it. -/
theorem pseudoNeg_negates {s : State} {a scratch : RegIx} (d : RegIx) (hv : (s.readV a).valid = true)
    (hne : scratch ≠ a) :
    ∃ t, atomicRun (pseudoNeg d a scratch (s.readV a).wc (s.readV a).sg) s = .next t ∧
      t.readV d = mk (s.readV a).wc (s.readV a).sg (-val (s.readV a)) := by
  rw [pseudoNeg, atomicRun_hostCommand rfl exec_zero_ok]
  set u := State.succeed _ 0x01 with hu
  have hscratch : u.readV scratch = mk (s.readV a).wc (s.readV a).sg 0 := by simp [hu]
  have ha : u.readV a = s.readV a := by simp [hu, State.readV_writeV_ne _ _ _ _ hne.symm]
  rw [← ha] at hv
  have hsub : exec (.sub d scratch a) (u.issued (.sub d scratch a)) = _ :=
    exec_sub_ok (by simp [hscratch]) hv (by simp [hscratch, ha])
  refine ⟨_, atomicRun_hostCommand rfl hsub [], ?_⟩
  simp [hscratch, ha, val_mk_zero]

/-! ## CVT -/

/-- The low bits of a value and of its pattern are the same, at every width that is not larger. -/
theorem mk_pat_narrow (r : VReg) {wc : WidthCode} (sg : Bool) (hw : widthOf wc ≤ widthOf r.wc) :
    mk wc sg (pat r) = mk wc sg (val r) := by
  apply mk_congr
  rw [← val_emod, Int.emod_emod_of_dvd _ (pow_dvd_pow 2 hw)]

/-- REINT's step: the pattern `mk` stores, at the other signedness. -/
theorem mk_pat_mk (wc : WidthCode) (sg sg' : Bool) (x : Int) : mk wc sg' (pat (mk wc sg x)) = mk wc sg' x := by
  apply mk_congr
  rw [pat_mk, truncBits_cast, Int.emod_emod_of_dvd _ dvd_rfl]

/-- CVT's first command, WIDEN or NARROW, gives the value at the new width with its own signedness. -/
theorem pseudoCvt_width {s : State} {a : RegIx} (d : RegIx) (wc : WidthCode) (hv : (s.readV a).valid = true)
    (rest : List Access) :
    ∃ t, t.readV d = mk wc (s.readV a).sg (val (s.readV a)) ∧
      atomicRun ((if widthOf wc ≥ widthOf (s.readV a).wc then hostCommand (.widen d a wc)
        else hostCommand (.narrow d a wc)) :: rest) s = atomicRun rest t := by
  split_ifs with hw
  · exact ⟨_, by simp, atomicRun_hostCommand rfl (exec_widen_ok hv hw) rest⟩
  · have hle : widthOf wc ≤ widthOf (s.readV a).wc := by omega
    exact ⟨_, by simp [mk_pat_narrow _ _ hle], atomicRun_hostCommand rfl (exec_narrow_ok hv hle) rest⟩

theorem pseudoCvt_converts {s : State} {a : RegIx} (d : RegIx) (wc : WidthCode) (sg : Bool)
    (hv : (s.readV a).valid = true) :
    ∃ t, atomicRun (pseudoCvt d a (s.readV a).wc (s.readV a).sg wc sg) s = .next t ∧
      t.readV d = mk wc sg (val (s.readV a)) := by
  obtain ⟨u, hu, hrun⟩ := pseudoCvt_width d wc hv (if sg ≠ (s.readV a).sg then [hostCommand (.reint d d)] else [])
  rw [pseudoCvt, hrun]
  by_cases hsg : sg = (s.readV a).sg
  · refine ⟨u, by simp [hsg, atomicRun], by rw [hu, hsg]⟩
  · have hflip : (!(s.readV a).sg) = sg := (Bool.eq_not_of_ne hsg).symm
    have hreint : exec (.reint d d) (u.issued (.reint d d)) = _ := exec_reint_ok (by simp [hu])
    rw [if_pos hsg]
    refine ⟨_, atomicRun_hostCommand rfl hreint [], ?_⟩
    rw [State.readV_succeed, State.readV_writeV_self, State.issued_readV, hu, mk_wc, mk_sg, hflip, mk_pat_mk]

/-! ## SHLI, SHRI and GETBITI -/

/-- Two next states with the same error code and the same `f`. -/
def OutcomesAgree {α : Type} (f : State → α) (o' o : Host.Outcome State Fault Refusal) : Prop :=
  ∃ t u, o' = .next t ∧ o = .next u ∧ f t = f u ∧ t.errcode = u.errcode

/-- Two results of a rule: the same error kind, or states with the same `f`. -/
def RulesAgree {α : Type} (f : State → α) (r' r : Except ErrKind State) : Prop := r'.map f = r.map f

section
variable {α : Type} {f : State → α}

theorem RulesAgree.error (e : ErrKind) : RulesAgree f (.error e) (.error e) := rfl

theorem RulesAgree.ok {t u : State} (h : f t = f u) : RulesAgree f (.ok t) (.ok u) := congrArg Except.ok h

theorem RulesAgree.ite {c : Prop} [Decidable c] {a' a b' b : Except ErrKind State} (ha : RulesAgree f a' a)
    (hb : RulesAgree f b' b) : RulesAgree f (if c then a' else b') (if c then a else b) := by
  split
  · exact ha
  · exact hb

theorem RulesAgree.bind {β : Type} {x : Except ErrKind β} {g' g : β → Except ErrKind State}
    (h : ∀ b, RulesAgree f (g' b) (g b)) : RulesAgree f (x >>= g') (x >>= g) := by
  cases x with
  | ok b => exact h b
  | error e => exact .error e

/-- Both completions end alike, if they do not change `f` and a failure starts from states with the same `f`. -/
theorem RulesAgree.complete {op : Opcode} {s' s : State} {r' r : Except ErrKind State} (h : RulesAgree f r' r)
    (hs : ∀ e, f (s'.fail op e) = f (s.fail op e)) (hsucceed : ∀ t, f (State.succeed t op) = f t) :
    OutcomesAgree f (complete op s' r') (complete op s r) := by
  cases r' with
  | error e' =>
    cases r with
    | error e => cases h; exact ⟨_, _, rfl, rfl, hs _, rfl⟩
    | ok u => cases h
  | ok t =>
    cases r with
    | error e => cases h
    | ok u =>
      have hf : f t = f u := Except.ok.inj h
      exact ⟨_, _, rfl, rfl, by rw [hsucceed, hsucceed, hf], rfl⟩

end

section
variable {s s' : State} (hv : ∀ j, s'.readV j = s.readV j)
include hv

theorem src_congr (i : RegIx) : src s' i = src s i := by rw [src, hv, src]

variable (harg : s'.arg = s.arg)
include harg

/-- What a shift writes depends on the value registers and ARG only. -/
theorem shiftToV_congr (op : Opcode) (rd rs1 : RegIx) (f : VReg → Nat → Int) :
    OutcomesAgree (fun t => t.readV rd) (shiftToV op rd rs1 f s') (shiftToV op rd rs1 f s) := by
  rw [shiftToV, shiftToV, src_congr hv, sarg, harg, ← sarg]
  exact RulesAgree.complete (.bind fun a => .ite (.error _) (.ok (by simp))) (by simp [hv]) (by simp)

/-- What GETBIT answers depends on the value registers and ARG only; a failure leaves RES as it was. -/
theorem execGetbit_congr (hres : s'.res = s.res) (rs1 : RegIx) :
    OutcomesAgree State.res (execGetbit rs1 s') (execGetbit rs1 s) := by
  rw [execGetbit, execGetbit, src_congr hv, sarg, harg, ← sarg]
  exact RulesAgree.complete (.bind fun a => .ite (.error _) (.ok rfl)) (by simp [hres]) (by simp)

end

/-- A host program that sets ARG and runs a command is that command, run with ARG set. -/
theorem atomicRun_setArg {i : Instr} (hwf : i.wellFormed = true) {s : State} (hidle : s.inflight = none) (n : Word) :
    atomicRun [hostWrite .arg n, hostCommand i] s = exec i ((s.answered (hostWrite .arg n)).issued i) := by
  obtain ⟨t, ht, -⟩ := exec_commits i ((s.answered (hostWrite .arg n)).issued i)
  rw [atomicRun_cons (atomicAccess_hostWrite (r := .arg) hidle nofun n), atomicRun_hostCommand hwf ht, ht, atomicRun]

section
variable {s : State} (hidle : s.inflight = none) (d a : RegIx) (n : Word)
include hidle

theorem pseudoShli_agrees :
    OutcomesAgree (fun t => t.readV d) (atomicRun (pseudoShli d a n) s) (exec (.shl d a) { s with arg := n }) := by
  rw [pseudoShli, atomicRun_setArg rfl hidle, answered_hostWrite]
  simp only [exec, execShl]
  refine shiftToV_congr (fun _ => ?_) ?_ _ d a _ <;> rfl

theorem pseudoShri_agrees :
    OutcomesAgree (fun t => t.readV d) (atomicRun (pseudoShri d a n) s) (exec (.shr d a) { s with arg := n }) := by
  rw [pseudoShri, atomicRun_setArg rfl hidle, answered_hostWrite]
  simp only [exec, execShr]
  refine shiftToV_congr (fun _ => ?_) ?_ _ d a _ <;> rfl

theorem pseudoGetbiti_agrees :
    OutcomesAgree State.res (atomicRun (pseudoGetbiti a n) s) (exec (.getbit a) { s with arg := n }) := by
  rw [pseudoGetbiti, atomicRun_setArg rfl hidle, answered_hostWrite]
  simp only [exec]
  refine execGetbit_congr (fun _ => ?_) ?_ ?_ a <;> rfl

end

/-- Settles O39, one clause per pseudo-instruction; LI has one per signedness. -/
theorem pseudoInstructionsDoWhatTheySay : Obligations.PseudoInstructionsDoWhatTheySay := by
  intro s d a hidle
  refine ⟨pseudoMov_copies d, fun wc imm hlow hhigh => ?_, fun wc imm hlt => ?_,
    fun scratch => pseudoNeg_negates d, fun wc sg => pseudoCvt_converts d wc sg, pseudoShli_agrees hidle d a,
    pseudoShri_agrees hidle d a, pseudoGetbiti_agrees hidle a⟩
  · have hrange : inRange imm.toInt (widthOf wc) true = true := decide_eq_true ⟨hlow, hhigh⟩
    exact pseudoLi_loads hidle d (if_pos rfl) hrange
  · have hcast : (imm.toNat : Int) < 2 ^ widthOf wc := by exact_mod_cast hlt
    have hrange : inRange imm.toNat (widthOf wc) false = true :=
      decide_eq_true ⟨Int.natCast_nonneg _, Int.le_sub_one_of_lt hcast⟩
    exact pseudoLi_loads hidle d (if_neg (by decide)) hrange

end Sys2Proof.Machine
end

section
/-! SUPPORT. The word-vector commands ZERO, LDW, STW, GETBIT, ISZERO, SIGNBIT and TYPEOF (40_wordvector.md R120 to
R132): what each answers, by case, and what its answer says of the operand. -/

namespace Sys2Proof.Machine

/-! ## Rows, completions and frames -/

/-- The word of a well-formed command selects its row (30_encoding.md R97). -/
theorem selectsRow_encode {i : Instr} (hwf : i.wellFormed = true) : SelectsRow (encode i) (rowOf i) :=
  ((encode_eq_iff i (encode i)).mp ⟨rfl, hwf⟩).1

/-- The success completion sets STATUS as 60_exceptions.md R246 has it. -/
theorem succeed_succeeded (op : Opcode) (t : State) : Succeeded op (t.succeed op) := ⟨rfl, rfl, rfl, rfl, rfl⟩

theorem onlyRegs_writeV_succeed (s : State) (rd : RegIx) (r : VReg) (op : Opcode) :
    OnlyRegs [rd] s ((s.writeV rd r).succeed op) := by
  refine ⟨fun j hj => ?_, rfl, rfl, rfl, rfl, rfl, rfl, rfl⟩
  rw [State.readV_succeed, State.readV_writeV_ne s rd j r (List.ne_of_not_mem_cons hj)]

theorem onlyRes_writeRes_succeed (s : State) (x : Word) (op : Opcode) : OnlyRes s ((s.writeRes x).succeed op) :=
  ⟨fun j => by simp, rfl, rfl, rfl, rfl, rfl, rfl⟩

/-- A write of all of DATA leaves no word of it out. -/
theorem onlyData_writeDataAll_succeed (s : State) (d : Vector Word 8) (op : Opcode) :
    OnlyData [0, 1, 2, 3, 4, 5, 6, 7] s ((s.writeDataAll d).succeed op) := by
  have hall : ∀ k : Fin 8, k ∈ [0, 1, 2, 3, 4, 5, 6, 7] := by decide
  exact ⟨fun j => by simp, fun k hk => absurd (hall k) hk, rfl, rfl, rfl, rfl, rfl, rfl⟩

/-! ## What the commands answer -/

section
variable {s : State} {rs1 : RegIx}

/-- A command that reads its source first fails if it is empty (10_state.md R34). -/
theorem complete_src_empty (op : Opcode) (f : VReg → Except ErrKind State) (h : (s.readV rs1).valid = false) :
    complete op s (src s rs1 >>= f) = .next (s.fail op .uninitialized) := by
  rw [src_empty h, error_bind, complete_error]

/-- A command that reads its source first goes on with the value read. -/
theorem complete_src_valid (op : Opcode) (f : VReg → Except ErrKind State) (h : (s.readV rs1).valid = true) :
    complete op s (src s rs1 >>= f) = complete op s (f (s.readV rs1)) := by
  rw [src_valid h, ok_bind]

theorem exec_ldw_ok {wc : WidthCode} {cnt : BitVec 4} (h : cnt.toNat = wordsOf wc) (rd : RegIx) (sg : Bool) :
    exec (.ldw rd wc sg cnt) s = .next ((s.writeV rd (mk wc sg (dataPattern s (wordsOf wc)))).succeed 0x02) := by
  rw [exec, execLdw, if_pos h, complete_ok, opcodeOf]

theorem exec_stw_empty (h : (s.readV rs1).valid = false) :
    exec (.stw rs1) s = .next (s.fail 0x03 .uninitialized) := by
  rw [exec, execStw, complete_src_empty _ _ h, opcodeOf]

theorem exec_stw_ok (h : (s.readV rs1).valid = true) :
    exec (.stw rs1) s = .next ((s.writeDataAll (s.readV rs1).wd).succeed 0x03) := by
  rw [exec, execStw, complete_src_valid _ _ h, complete_ok, opcodeOf]

theorem exec_getbit_empty (h : (s.readV rs1).valid = false) :
    exec (.getbit rs1) s = .next (s.fail 0x04 .uninitialized) := by
  rw [exec, execGetbit, complete_src_empty _ _ h, opcodeOf]

theorem exec_getbit_outside (h : (s.readV rs1).valid = true) (hi : sarg s < 0 ∨ sarg s ≥ widthOf (s.readV rs1).wc) :
    exec (.getbit rs1) s = .next (s.fail 0x04 .indexOutOfRange) := by
  rw [exec, execGetbit, complete_src_valid _ _ h, if_pos hi, complete_error, opcodeOf]

theorem exec_getbit_inside (h : (s.readV rs1).valid = true)
    (hi : ¬(sarg s < 0 ∨ sarg s ≥ widthOf (s.readV rs1).wc)) :
    exec (.getbit rs1) s =
      .next ((s.writeRes (boolWord ((pat (s.readV rs1)).testBit (sarg s).toNat))).succeed 0x04) := by
  rw [exec, execGetbit, complete_src_valid _ _ h, if_neg hi, complete_ok, opcodeOf]

theorem exec_iszero_empty (h : (s.readV rs1).valid = false) :
    exec (.iszero rs1) s = .next (s.fail 0x05 .uninitialized) := by
  rw [exec, execIszero, complete_src_empty _ _ h, opcodeOf]

theorem exec_iszero_ok (h : (s.readV rs1).valid = true) :
    exec (.iszero rs1) s = .next ((s.writeRes (boolWord (pat (s.readV rs1) == 0))).succeed 0x05) := by
  rw [exec, execIszero, complete_src_valid _ _ h, complete_ok, opcodeOf]

/-- The bit SIGNBIT answers: the top value bit of a signed type, and 0 of an unsigned one (40_wordvector.md R130). -/
def signOf (a : VReg) : Bool := a.sg && (pat a).testBit (widthOf a.wc - 1)

theorem exec_signbit_empty (h : (s.readV rs1).valid = false) :
    exec (.signbit rs1) s = .next (s.fail 0x06 .uninitialized) := by
  rw [exec, execSignbit, complete_src_empty _ _ h, opcodeOf]

theorem exec_signbit_ok (h : (s.readV rs1).valid = true) :
    exec (.signbit rs1) s = .next ((s.writeRes (boolWord (signOf (s.readV rs1)))).succeed 0x06) := by
  rw [exec, execSignbit, complete_src_valid _ _ h, complete_ok, opcodeOf, signOf]

theorem exec_typeof_ok : exec (.typeof rs1) s = .next ((s.writeRes (typeWord (s.readV rs1))).succeed 0x07) := by
  rw [exec, execTypeof, complete_ok, opcodeOf]

end

/-! ## Stored words and the value -/

/-- Every stored word of the canonical zero is 0 (40_wordvector.md R120). -/
theorem mk_zero_wd (wc : WidthCode) (sg : Bool) (k : Fin 8) : (mk wc sg 0).wd[k.val] = 0 := by
  simp [mk, truncBits, padded, wordAt]

/-- The words of a canonical register above its word count are 0 (10_state.md R32, R33). -/
theorem wd_high_of_canonical {r : VReg} (hv : r.valid = true) (hc : Canonical r) (k : Fin 8)
    (hk : wordsOf r.wc ≤ k.val) : r.wd[k.val] = 0 := by
  rw [hc hv]
  exact mk_wd_high r.wc r.sg (val r) k hk

theorem wordsNat_of_all_zero : ∀ ws : List Word, (∀ x ∈ ws, x = 0) → wordsNat ws = 0
  | [], _ => rfl
  | x :: xs, h => by
    have hx : x = 0 := h x List.mem_cons_self
    have hxs := wordsNat_of_all_zero xs fun y hy => h y (List.mem_cons_of_mem x hy)
    simp [wordsNat, hx, hxs]

theorem pat_eq_zero_of_wd {r : VReg} (h : ∀ k : Fin 8, r.wd[k.val] = 0) : pat r = 0 := by
  have hwords : ∀ x ∈ valueWords r, x = 0 := by
    intro x hx
    obtain ⟨j, hj, rfl⟩ := List.getElem_of_mem (List.mem_of_mem_take hx)
    have hj8 : j < 8 := by simpa using hj
    simpa using h ⟨j, hj8⟩
  rw [pat, wordsNat_of_all_zero _ hwords, Nat.zero_mod]

/-- A canonical value has pattern 0 iff all its stored words are 0, padding included (40_wordvector.md R129). -/
theorem pat_eq_zero_iff_wd {r : VReg} (hv : r.valid = true) (hc : Canonical r) :
    pat r = 0 ↔ ∀ k : Fin 8, r.wd[k.val] = 0 := by
  refine ⟨fun h k => ?_, pat_eq_zero_of_wd⟩
  rw [← mk_pat_of_canonical hv hc, h]
  exact mk_zero_wd r.wc r.sg k

/-- The value is 0 iff the value bits are: reduced modulo `2^w`, the value is its pattern (40_wordvector.md R128). -/
theorem val_eq_zero_iff (r : VReg) : val r = 0 ↔ pat r = 0 := by
  constructor
  · intro h
    rw [← truncBits_val, h, truncBits, Int.zero_emod, Int.toNat_zero]
  · intro h
    simp [val, sval, h]

/-- A signed value is negative iff its top bit is 1 (00_scope.md R16). -/
theorem sval_neg_iff {w p : Nat} (h : p < 2 ^ w) : sval w p < 0 ↔ p.testBit (w - 1) = true := by
  have hp : (p : Int) < 2 ^ w := by exact_mod_cast h
  unfold sval
  split_ifs with htop
  · exact iff_of_true (by omega) htop
  · exact iff_of_false (by omega) htop

theorem signOf_eq_val_neg {r : VReg} (h : r.sg = true) : signOf r = decide (val r < 0) := by
  rw [signOf, h, Bool.true_and, val, if_pos h, Bool.eq_iff_iff, decide_eq_true_iff, sval_neg_iff (pat_lt r)]

/-- The value read back from the words it stored is the value (40_wordvector.md R125). -/
theorem mk_wordsNat_valueWords {r : VReg} (hv : r.valid = true) (hc : Canonical r) :
    mk r.wc r.sg (wordsNat (valueWords r)) = r := by
  have hmod : mk r.wc r.sg (wordsNat (valueWords r)) = mk r.wc r.sg (pat r) :=
    mk_congr r.wc r.sg (by rw [pat]; push_cast; rw [Int.emod_emod_of_dvd _ dvd_rfl])
  rw [hmod, mk_pat_of_canonical hv hc]

/-! ## Answers in RES -/

theorem boolWord_eq_ofNat (b : Bool) : boolWord b = BitVec.ofNat 32 b.toNat := by cases b <;> rfl

theorem boolWord_decide (p : Prop) [Decidable p] : boolWord (decide p) = if p then 1 else 0 := by
  simp [boolWord]

theorem boolWord_eq_one_iff (b : Bool) : boolWord b = 1 ↔ b = true := by cases b <;> decide

/-- A bit in RES, as a number. -/
theorem boolWord_testBit (p i : Nat) : boolWord (p.testBit i) = BitVec.ofNat 32 (p / 2 ^ i % 2) := by
  rw [boolWord_eq_ofNat, Nat.toNat_testBit]

/-- An index that is not negative is ARG read as an unsigned number. -/
theorem toNat_sarg {s : State} (h : 0 ≤ sarg s) : (sarg s).toNat = s.arg.toNat := by
  rw [sarg_eq, BitVec.toInt_eq_toNat_cond] at *
  split_ifs at * <;> omega

/-- Above its top bit a pattern has none. -/
theorem div_top_mod_two {w p : Nat} (hw : 0 < w) (h : p < 2 ^ w) : p / 2 ^ (w - 1) % 2 = p / 2 ^ (w - 1) := by
  apply Nat.mod_eq_of_lt
  rw [Nat.div_lt_iff_lt_mul (by positivity), ← pow_succ', Nat.sub_add_cancel hw]
  exact h

/-- A number moved to a field of a word that it fits in. -/
theorem toNat_ofNat_shiftLeft {x i : Nat} (h : x * 2 ^ i < 2 ^ 32) : (BitVec.ofNat 32 x <<< i).toNat = x <<< i := by
  have hx : x < 2 ^ 32 := (Nat.le_mul_of_pos_right x (by positivity)).trans_lt h
  rw [BitVec.toNat_shiftLeft, BitVec.toNat_ofNat, Nat.mod_eq_of_lt hx, Nat.shiftLeft_eq, Nat.mod_eq_of_lt h]

/-- TYPEOF's answer for a valid register, as a number: the fields do not overlap (40_wordvector.md R132). -/
theorem typeWord_toNat {r : VReg} (h : r.valid = true) :
    (typeWord r).toNat = 2 ^ 31 + wordsOf r.wc * 2 ^ 16 + r.sg.toNat * 2 ^ 9 + widthOf r.wc := by
  have hn := wordsOf_le r.wc
  have hw := widthOf_le r.wc
  have hsg := r.sg.toNat_le
  have hvalid : ((1 <<< 31 : Nat) : Word) = BitVec.ofNat 32 1 <<< 31 := by decide
  rw [typeWord, if_pos h, boolWord_eq_ofNat, hvalid, BitVec.or_assoc, BitVec.or_assoc]
  simp only [BitVec.toNat_or]
  rw [toNat_ofNat_shiftLeft (by omega), toNat_ofNat_shiftLeft (by omega), toNat_ofNat_shiftLeft (by omega),
    BitVec.toNat_ofNat, Nat.mod_eq_of_lt (by omega), ← Nat.shiftLeft_add_eq_or_of_lt (i := 9) (by omega),
    ← Nat.shiftLeft_add_eq_or_of_lt (i := 16) (by omega), ← Nat.shiftLeft_add_eq_or_of_lt (i := 31) (by omega)]
  omega

theorem getLsbD_of_toNat {x : Word} {i : Nat} {b : Bool} (h : x.toNat / 2 ^ i % 2 = b.toNat) : x.getLsbD i = b := by
  rw [BitVec.getLsbD, Nat.testBit_eq_decide_div_mod_eq, h]
  cases b <;> rfl

theorem extractLsb'_toNat_div (x : Word) (i n : Nat) : (x.extractLsb' i n).toNat = x.toNat / 2 ^ i % 2 ^ n := by
  rw [BitVec.extractLsb'_toNat, Nat.shiftRight_eq_div_pow]

theorem extractLsb'_eq_zero {x : Word} {i n : Nat} (h : x.toNat / 2 ^ i % 2 ^ n = 0) : x.extractLsb' i n = 0 := by
  apply BitVec.eq_of_toNat_eq
  rw [extractLsb'_toNat_div, h]
  exact BitVec.toNat_zero.symm

/-- The fields of TYPEOF's answer for a valid register, read off that number. -/
theorem typeWord_fields {r : VReg} (h : r.valid = true) :
    (typeWord r).getLsbD 31 = true ∧ (typeWord r).extractLsb' 20 11 = 0 ∧
      ((typeWord r).extractLsb' 16 4).toNat = wordsOf r.wc ∧ (typeWord r).extractLsb' 10 6 = 0 ∧
      (typeWord r).getLsbD 9 = r.sg ∧ ((typeWord r).extractLsb' 0 9).toNat = widthOf r.wc := by
  have hnum := typeWord_toNat h
  have hn := wordsOf_le r.wc
  have hw := widthOf_le r.wc
  have hsg := r.sg.toNat_le
  refine ⟨getLsbD_of_toNat ?_, extractLsb'_eq_zero ?_, ?_, extractLsb'_eq_zero ?_, getLsbD_of_toNat ?_, ?_⟩
  · rw [Bool.toNat_true]; omega
  · omega
  · rw [extractLsb'_toNat_div]; omega
  · omega
  · omega
  · rw [extractLsb'_toNat_div]; omega

/-! ## The rules of the commands -/

/-- Settles O11: ZERO writes what `mk` stores for 0. -/
theorem zeroFollowsRule : Obligations.ZeroFollowsRule := by
  intro s rd wc sg
  refine ⟨selectsRow_encode (i := .zero rd wc sg) rfl, _, exec_zero_ok, succeed_succeeded _ _,
    onlyRegs_writeV_succeed s rd _ _, ?_⟩
  rw [State.readV_succeed, State.readV_writeV_self]
  exact ⟨rfl, rfl, val_mk_zero wc sg, mk_zero_wd wc sg⟩

/-- Settles O12: the count decides the case. -/
theorem ldwFollowsRule : Obligations.LdwFollowsRule := by
  intro s rd wc sg cnt
  refine ⟨selectsRow_encode (i := .ldw rd wc sg cnt) rfl, fun hcnt => ?_, fun hcnt => ?_⟩
  · exact ⟨_, execLdw_wrongCount hcnt rd sg s, fail_failedWith _ _ _⟩
  · refine ⟨_, exec_ldw_ok hcnt rd sg, succeed_succeeded _ _, onlyRegs_writeV_succeed s rd _ _, ?_⟩
    rw [State.readV_succeed, State.readV_writeV_self, ← dataPattern, pat_mk, truncBits_natCast, hcnt, ← wordsOf]
    exact ⟨rfl, rfl⟩

/-- Settles O13: DATA becomes the word vector of the source. -/
theorem stwFollowsRule : Obligations.StwFollowsRule := by
  intro s rs1
  refine ⟨selectsRow_encode (i := .stw rs1) rfl, fun hv => ?_, fun hv => ?_⟩
  · exact ⟨_, exec_stw_empty hv, fail_failedWith _ _ _⟩
  · exact ⟨_, exec_stw_ok hv, succeed_succeeded _ _, onlyData_writeDataAll_succeed s _ _, fun k => rfl,
      fun hc k hk => wd_high_of_canonical hv hc k hk⟩

/-- Settles O14: `sarg` is ARG as a two's-complement integer (`sarg_eq`), and its sign and size decide the case. -/
theorem getbitFollowsRule : Obligations.GetbitFollowsRule := by
  intro s rs1
  rw [← sarg_eq]
  refine ⟨selectsRow_encode (i := .getbit rs1) rfl, fun hv => ?_, fun hv hi => ?_, fun hv hlow hhigh => ?_⟩
  · exact ⟨_, exec_getbit_empty hv, fail_failedWith _ _ _⟩
  · exact ⟨_, exec_getbit_outside hv hi, fail_failedWith _ _ _⟩
  · refine ⟨_, exec_getbit_inside hv (by omega), succeed_succeeded _ _, onlyRes_writeRes_succeed s _ _, ?_⟩
    rw [State.succeed_res, State.writeRes_res, boolWord_testBit, toNat_sarg hlow]

/-- Settles O15: the value bits are 0 iff the value is, and of a canonical value iff every stored word is. -/
theorem iszeroFollowsRule : Obligations.IszeroFollowsRule := by
  intro s rs1
  refine ⟨selectsRow_encode (i := .iszero rs1) rfl, fun hv => ?_, fun hv => ?_⟩
  · exact ⟨_, exec_iszero_empty hv, fail_failedWith _ _ _⟩
  · refine ⟨_, exec_iszero_ok hv, succeed_succeeded _ _, onlyRes_writeRes_succeed s _ _, ?_⟩
    rw [State.succeed_res, State.writeRes_res]
    refine ⟨?_, fun hc => ?_⟩
    · simp only [val_eq_zero_iff, ← boolWord_decide, beq_eq_decide]
    · rw [boolWord_eq_one_iff, beq_iff_eq, pat_eq_zero_iff_wd hv hc]

/-- Settles O16: the top bit of a signed value says whether it is negative. -/
theorem signbitFollowsRule : Obligations.SignbitFollowsRule := by
  intro s rs1
  refine ⟨selectsRow_encode (i := .signbit rs1) rfl, fun hv => ?_, fun hv => ?_⟩
  · exact ⟨_, exec_signbit_empty hv, fail_failedWith _ _ _⟩
  · refine ⟨_, exec_signbit_ok hv, succeed_succeeded _ _, onlyRes_writeRes_succeed s _ _, fun hsg => ?_,
      fun hsg => ⟨?_, ?_⟩⟩ <;> rw [State.succeed_res, State.writeRes_res]
    · rw [signOf, hsg, Bool.false_and, boolWord, if_neg Bool.false_ne_true]
    · rw [signOf, hsg, Bool.true_and, boolWord_testBit, div_top_mod_two (widthOf_pos _) (pat_lt _)]
    · rw [signOf_eq_val_neg hsg, boolWord_decide]

/-- Settles O35: LDW loads the words STW stored, and canonicalizing them gives the value back. -/
theorem stwLdwRoundTrip : Obligations.StwLdwRoundTrip := by
  intro s rs1 rd hv hc
  have hcnt : (BitVec.ofNat 4 (wordsOf (s.readV rs1).wc)).toNat = wordsOf (s.readV rs1).wc := by
    have := wordsOf_le (s.readV rs1).wc
    rw [BitVec.toNat_ofNat]; omega
  refine ⟨_, _, exec_stw_ok hv, exec_ldw_ok hcnt rd _, State.succeed_errcode _ _, ?_⟩
  rw [State.readV_succeed, State.readV_writeV_self, dataPattern, State.succeed_data, State.writeDataAll_data,
    ← valueWords, mk_wordsNat_valueWords hv hc]

/-- Settles O17: each field of RES is read off the number RES holds (`typeWord_fields`). -/
theorem typeofFollowsRule : Obligations.TypeofFollowsRule := by
  intro s rs1
  refine ⟨selectsRow_encode (i := .typeof rs1) rfl, _, exec_typeof_ok, succeed_succeeded _ _,
    onlyRes_writeRes_succeed s _ _, fun hv => ?_, fun hv => ?_⟩ <;> rw [State.succeed_res, State.writeRes_res]
  · rw [typeWord, if_neg (by simp [hv])]
  · exact typeWord_fields hv

end Sys2Proof.Machine
end

section
/-! SUPPORT. ADD, SUB and MUL (41_arith.md R150 to R158): what a two-operand command answers, and why the result bits do
not depend on the signedness: `mk` narrows an integer modulo `2^w`, and modulo `2^w` a value is its pattern. -/

namespace Sys2Proof.Machine

/-! ## Values modulo `2^w` -/

theorem val_modEq_pat (a : VReg) : val a ≡ pat a [ZMOD 2 ^ widthOf a.wc] := by
  have hpat : (pat a : Int) % 2 ^ widthOf a.wc = pat a := Int.emod_eq_of_lt (by positivity) (by exact_mod_cast pat_lt a)
  exact (val_emod a).trans hpat.symm

/-- Storing an integer and reading it back keeps it modulo `2^w`. -/
theorem val_mk_modEq (wc : WidthCode) (sg : Bool) (x : Int) : val (mk wc sg x) ≡ x [ZMOD 2 ^ widthOf wc] := by
  have h := val_emod (mk wc sg x)
  rw [pat_mk, truncBits_cast] at h
  exact h

theorem truncBits_eq_of_modEq {m p : Nat} {x : Int} (h : x ≡ p [ZMOD 2 ^ m]) : truncBits m x = p % 2 ^ m := by
  rw [← truncBits_natCast, truncBits, truncBits, h.eq]

section
variable {a b : VReg}

theorem SameType.val_modEq_pat (h : SameType a b) : val b ≡ pat b [ZMOD 2 ^ widthOf a.wc] := by
  rw [h.1]
  exact Machine.val_modEq_pat b

theorem SameType.pat_lt (h : SameType a b) : pat b < 2 ^ widthOf a.wc := by
  rw [h.1]
  exact Machine.pat_lt b

theorem truncBits_val_add (h : SameType a b) :
    truncBits (widthOf a.wc) (val a + val b) = (pat a + pat b) % 2 ^ widthOf a.wc := by
  apply truncBits_eq_of_modEq
  push_cast
  exact (val_modEq_pat a).add h.val_modEq_pat

theorem truncBits_val_sub (h : SameType a b) :
    truncBits (widthOf a.wc) (val a - val b) = (pat a + 2 ^ widthOf a.wc - pat b) % 2 ^ widthOf a.wc := by
  have hle : pat b ≤ pat a + 2 ^ widthOf a.wc := h.pat_lt.le.trans (Nat.le_add_left _ _)
  apply truncBits_eq_of_modEq
  push_cast [hle]
  calc val a - val b ≡ pat a - pat b [ZMOD 2 ^ widthOf a.wc] := (val_modEq_pat a).sub h.val_modEq_pat
    _ ≡ pat a - pat b + 2 ^ widthOf a.wc [ZMOD 2 ^ widthOf a.wc] := Int.ModEq.symm Int.add_modEq_right
    _ = pat a + 2 ^ widthOf a.wc - pat b := by ring

theorem truncBits_val_mul (h : SameType a b) :
    truncBits (widthOf a.wc) (val a * val b) = pat a * pat b % 2 ^ widthOf a.wc := by
  apply truncBits_eq_of_modEq
  push_cast
  exact (val_modEq_pat a).mul h.val_modEq_pat

end

/-! ## What a two-operand command answers -/

theorem exec_add (rd rs1 rs2 : RegIx) (s : State) :
    exec (.add rd rs1 rs2) s = binaryToV 0x08 rd rs1 rs2 (fun a b => val a + val b) s := rfl

theorem exec_sub (rd rs1 rs2 : RegIx) (s : State) :
    exec (.sub rd rs1 rs2) s = binaryToV 0x09 rd rs1 rs2 (fun a b => val a - val b) s := rfl

theorem exec_mul (rd rs1 rs2 : RegIx) (s : State) :
    exec (.mul rd rs1 rs2) s = binaryToV 0x0A rd rs1 rs2 (fun a b => val a * val b) s := rfl

theorem OnlyRegs.readV_eq {ds : List RegIx} {s t : State} (h : OnlyRegs ds s t) {j : RegIx} (hj : j ∉ ds) :
    t.readV j = s.readV j := h.1 j hj

theorem binaryToV_writes {s : State} {rs1 rs2 : RegIx} (op : Opcode) (rd : RegIx) (f : VReg → VReg → Int)
    (h1 : (s.readV rs1).valid = true) (h2 : (s.readV rs2).valid = true) (h : SameType (s.readV rs1) (s.readV rs2)) :
    ∃ t, binaryToV op rd rs1 rs2 f s = .next t ∧ Succeeded op t ∧ OnlyRegs [rd] s t ∧
      t.readV rd = mk (s.readV rs1).wc (s.readV rs1).sg (f (s.readV rs1) (s.readV rs2)) :=
  ⟨_, binaryToV_ok h1 h2 h, succeed_succeeded _ _, onlyRegs_writeV_succeed _ _ _ _,
    by rw [State.readV_succeed, State.readV_writeV_self]⟩

section
variable {s : State} {rs1 rs2 : RegIx} (rd : RegIx) (h1 : (s.readV rs1).valid = true)
  (h2 : (s.readV rs2).valid = true) (h : SameType (s.readV rs1) (s.readV rs2))
include h1 h2 h

theorem add_writes :
    ∃ t, exec (.add rd rs1 rs2) s = .next t ∧ Succeeded 0x08 t ∧ OnlyRegs [rd] s t ∧
      t.readV rd = mk (s.readV rs1).wc (s.readV rs1).sg (val (s.readV rs1) + val (s.readV rs2)) := by
  rw [exec_add]
  exact binaryToV_writes 0x08 rd (fun a b => val a + val b) h1 h2 h

theorem sub_writes :
    ∃ t, exec (.sub rd rs1 rs2) s = .next t ∧ Succeeded 0x09 t ∧ OnlyRegs [rd] s t ∧
      t.readV rd = mk (s.readV rs1).wc (s.readV rs1).sg (val (s.readV rs1) - val (s.readV rs2)) := by
  rw [exec_sub]
  exact binaryToV_writes 0x09 rd (fun a b => val a - val b) h1 h2 h

theorem mul_writes :
    ∃ t, exec (.mul rd rs1 rs2) s = .next t ∧ Succeeded 0x0A t ∧ OnlyRegs [rd] s t ∧
      t.readV rd = mk (s.readV rs1).wc (s.readV rs1).sg (val (s.readV rs1) * val (s.readV rs2)) := by
  rw [exec_mul]
  exact binaryToV_writes 0x0A rd (fun a b => val a * val b) h1 h2 h

end

/-! ## The rules -/

/-- The rule of a command that writes `f a b` to V[rd], where the pattern of the result is `g a b`. -/
theorem binaryToV_followsRule (op : Opcode) (rd rs1 rs2 : RegIx) {f : VReg → VReg → Int} {g : VReg → VReg → Nat}
    (hg : ∀ a b, SameType a b → truncBits (widthOf a.wc) (f a b) = g a b) (s : State) :
    ((s.readV rs1).valid = false ∨ (s.readV rs2).valid = false →
      ∃ t, binaryToV op rd rs1 rs2 f s = .next t ∧ FailedWith op .uninitialized s t) ∧
    ((s.readV rs1).valid = true → (s.readV rs2).valid = true → ¬SameType (s.readV rs1) (s.readV rs2) →
      ∃ t, binaryToV op rd rs1 rs2 f s = .next t ∧ FailedWith op .typeMismatch s t) ∧
    ((s.readV rs1).valid = true → (s.readV rs2).valid = true → SameType (s.readV rs1) (s.readV rs2) →
      ∃ t, binaryToV op rd rs1 rs2 f s = .next t ∧ Succeeded op t ∧ OnlyRegs [rd] s t ∧
        t.readV rd = mk (s.readV rs1).wc (s.readV rs1).sg (f (s.readV rs1) (s.readV rs2)) ∧
        pat (t.readV rd) = g (s.readV rs1) (s.readV rs2)) := by
  refine ⟨fun hempty => ?_, fun h1 h2 hunlike => ?_, fun h1 h2 htype => ?_⟩
  · exact ⟨_, binaryToV_uninitialized hempty, fail_failedWith _ _ _⟩
  · exact ⟨_, binaryToV_typeMismatch h1 h2 hunlike, fail_failedWith _ _ _⟩
  · obtain ⟨t, hexec, hok, hframe, hrd⟩ := binaryToV_writes op rd f h1 h2 htype
    exact ⟨t, hexec, hok, hframe, hrd, by rw [hrd, pat_mk, hg _ _ htype]⟩

/-- Settles O18: the pattern of the sum is `truncBits_val_add`. -/
theorem addFollowsRule : Obligations.AddFollowsRule := by
  intro s rd rs1 rs2
  rw [exec_add]
  exact ⟨selectsRow_encode (i := .add rd rs1 rs2) rfl,
    binaryToV_followsRule 0x08 rd rs1 rs2 (fun _ _ => truncBits_val_add) s⟩

/-- Settles O19: the pattern of the difference is `truncBits_val_sub`. -/
theorem subFollowsRule : Obligations.SubFollowsRule := by
  intro s rd rs1 rs2
  rw [exec_sub]
  exact ⟨selectsRow_encode (i := .sub rd rs1 rs2) rfl,
    binaryToV_followsRule 0x09 rd rs1 rs2 (fun _ _ => truncBits_val_sub) s⟩

/-- Settles O20: the pattern of the product is `truncBits_val_mul`. -/
theorem mulFollowsRule : Obligations.MulFollowsRule := by
  intro s rd rs1 rs2
  rw [exec_mul]
  exact ⟨selectsRow_encode (i := .mul rd rs1 rs2) rfl,
    binaryToV_followsRule 0x0A rd rs1 rs2 (fun _ _ => truncBits_val_mul) s⟩

/-! ## The laws of ADD -/

/-- A command whose function is symmetric answers the same with its operands swapped, whatever they are. -/
theorem binaryToV_comm (op : Opcode) (rd rs1 rs2 : RegIx) {f : VReg → VReg → Int} (hf : ∀ a b, f a b = f b a)
    (s : State) : binaryToV op rd rs1 rs2 f s = binaryToV op rd rs2 rs1 f s := by
  rcases srcPair_cases s rs1 rs2 with ⟨hempty, -⟩ | ⟨h1, h2, hunlike, -⟩ | ⟨h1, h2, hsame, -⟩
  · rw [binaryToV_uninitialized hempty, binaryToV_uninitialized hempty.symm]
  · have hunlike' : ¬SameType (s.readV rs2) (s.readV rs1) := fun h => hunlike ⟨h.1.symm, h.2.symm⟩
    rw [binaryToV_typeMismatch h1 h2 hunlike, binaryToV_typeMismatch h2 h1 hunlike']
  · rw [binaryToV_ok h1 h2 hsame, binaryToV_ok h2 h1 ⟨hsame.1.symm, hsame.2.symm⟩, hsame.1, hsame.2, hf]

/-- Both ways to add three registers store the sum of the three values modulo `2^w`. -/
theorem add_associative {s : State} {x y z p q : RegIx} (hx : (s.readV x).valid = true) (hy : (s.readV y).valid = true)
    (hz : (s.readV z).valid = true) (hxy : SameType (s.readV x) (s.readV y)) (hxz : SameType (s.readV x) (s.readV z))
    (hpz : p ≠ z) (hqx : q ≠ x) :
    ∃ t u t' u', exec (.add p x y) s = .next t ∧ exec (.add p p z) t = .next u ∧
      exec (.add q y z) s = .next t' ∧ exec (.add q x q) t' = .next u' ∧ u.readV p = u'.readV q := by
  have hyz : SameType (s.readV y) (s.readV z) := ⟨hxy.1.symm.trans hxz.1, hxy.2.symm.trans hxz.2⟩
  obtain ⟨t, ht, -, hkeep, hp⟩ := add_writes p hx hy hxy
  have htz : t.readV z = s.readV z := hkeep.readV_eq (by simpa using hpz.symm)
  obtain ⟨u, hu, -, -, hup⟩ := add_writes (s := t) (rs1 := p) (rs2 := z) p
    (by rw [hp, mk_valid]) (by rw [htz, hz]) (by rw [hp, htz]; exact hxz)
  obtain ⟨t', ht', -, hkeep', hq⟩ := add_writes q hy hz hyz
  have htx : t'.readV x = s.readV x := hkeep'.readV_eq (by simpa using hqx.symm)
  obtain ⟨u', hu', -, -, huq⟩ := add_writes (s := t') (rs1 := x) (rs2 := q) q
    (by rw [htx, hx]) (by rw [hq, mk_valid]) (by rw [hq, htx]; exact hxy)
  refine ⟨t, u, t', u', ht, hu, ht', hu', ?_⟩
  rw [hup, huq, hp, hq, htz, htx, ← hxy.1, ← hxy.2, mk_wc, mk_sg]
  apply mk_congr
  have hleft := (val_mk_modEq (s.readV x).wc (s.readV x).sg (val (s.readV x) + val (s.readV y))).add_right
    (val (s.readV z))
  have hright := (val_mk_modEq (s.readV x).wc (s.readV x).sg (val (s.readV y) + val (s.readV z))).add_left
    (val (s.readV x))
  rw [add_assoc] at hleft
  exact hleft.trans hright.symm

/-- Settles O36, by `binaryToV_comm` and `add_associative`; a canonical value plus 0 is stored as it was. -/
theorem addLaws : Obligations.AddLaws := by
  refine ⟨fun s rd rs1 rs2 => ?_, fun s x y z p q => add_associative, fun s rd rs1 rs2 h1 h2 htype hcanon hzero => ?_⟩
  · rw [exec_add, exec_add]
    exact binaryToV_comm 0x08 rd rs1 rs2 (fun a b => Int.add_comm _ _) s
  · obtain ⟨t, hexec, -, -, hrd⟩ := add_writes rd h1 h2 htype
    refine ⟨t, hexec, ?_⟩
    rw [hrd, hzero, add_zero]
    exact (hcanon h1).symm

end Sys2Proof.Machine
end

section
/-! SUPPORT. DIVREM (41_arith.md R160 to R164). At both signednesses its quotient and remainder are those of the
division toward zero, since an unsigned value is not negative; the remainder is in the range of the type, and so is the
quotient but for MIN / -1. -/

namespace Sys2Proof.Machine

/-! ## Ranges -/

theorem inRange_unsigned_iff (x : Int) (w : Nat) : inRange x w false = true ↔ 0 ≤ x ∧ x ≤ 2 ^ w - 1 := by
  simp [inRange]

theorem inRange_signed_iff (x : Int) (w : Nat) :
    inRange x w true = true ↔ -2 ^ (w - 1) ≤ x ∧ x ≤ 2 ^ (w - 1) - 1 := by
  simp [inRange]

theorem val_bounds_unsigned {a : VReg} (h : a.sg = false) : 0 ≤ val a ∧ val a ≤ 2 ^ widthOf a.wc - 1 := by
  have hrange := val_inRange a
  rwa [h, inRange_unsigned_iff] at hrange

theorem val_bounds_signed {a : VReg} (h : a.sg = true) :
    -2 ^ (widthOf a.wc - 1) ≤ val a ∧ val a ≤ 2 ^ (widthOf a.wc - 1) - 1 := by
  have hrange := val_inRange a
  rwa [h, inRange_signed_iff] at hrange

/-! ## The division toward zero -/

/-- DIVREM's quotient is the one toward zero: rounding down is the same where no value is negative. -/
theorem quotient_val_eq_tdiv {a b : VReg} (h : SameType a b) :
    quotient a.sg (val a) (val b) = (val a).tdiv (val b) := by
  cases hsg : a.sg with
  | true => rfl
  | false =>
    have ha := (val_bounds_unsigned hsg).1
    have hb := (val_bounds_unsigned (h.2.symm.trans hsg)).1
    exact Int.fdiv_eq_tdiv_of_nonneg ha hb

theorem sub_tdiv_mul_eq_tmod (x y : Int) : x - x.tdiv y * y = x.tmod y := by
  rw [Int.tmod_def, Int.mul_comm]

/-- The remainder is 0 or has the dividend's sign (R162). -/
theorem tmod_sign (x y : Int) : x.tmod y = 0 ∨ (x.tmod y < 0 ↔ x < 0) := by
  rcases le_or_gt 0 x with hx | hx
  · have := Int.tmod_nonneg y hx
    omega
  · have := Int.tmod_nonneg y (Int.neg_nonneg_of_nonpos hx.le)
    rw [Int.neg_tmod] at this
    omega

/-- The quotient is 0 or negative exactly when the operands' signs differ (R162). -/
theorem tdiv_sign (x y : Int) : x.tdiv y = 0 ∨ (x.tdiv y < 0 ↔ ((x < 0 ∧ ¬y < 0) ∨ (¬x < 0 ∧ y < 0))) := by
  rcases le_or_gt 0 x with hx | hx <;> rcases le_or_gt 0 y with hy | hy
  · have := Int.tdiv_nonneg hx hy
    omega
  · have := Int.tdiv_nonpos_of_nonneg_of_nonpos hx hy.le
    omega
  · have := Int.tdiv_nonneg (Int.neg_nonneg_of_nonpos hx.le) hy
    rw [Int.neg_tdiv] at this
    omega
  · have := Int.tdiv_nonneg_of_nonpos_of_nonpos hx.le hy.le
    omega

theorem natAbs_tmod_lt {x y : Int} (hy : y ≠ 0) : (x.tmod y).natAbs < y.natAbs := by
  rw [Int.natAbs_tmod]
  exact Nat.mod_lt _ (Int.natAbs_pos.mpr hy)

section
variable {a b : VReg} (h : SameType a b) (hb : val b ≠ 0)
include h hb

/-- The remainder is smaller than the divisor, which is in the range of the type. -/
theorem tmod_val_inRange : inRange ((val a).tmod (val b)) (widthOf a.wc) a.sg = true := by
  have hlt := natAbs_tmod_lt (x := val a) hb
  cases hsg : a.sg with
  | false =>
    have hmod := Int.tmod_nonneg (val b) (val_bounds_unsigned hsg).1
    have hbound := val_bounds_unsigned (h.2.symm.trans hsg)
    rw [← h.1] at hbound
    rw [inRange_unsigned_iff]
    omega
  | true =>
    have hbound := val_bounds_signed (h.2.symm.trans hsg)
    rw [← h.1] at hbound
    rw [inRange_signed_iff]
    omega

/-- Only MIN / -1 leaves the range: a divisor of 1 or -1 keeps the magnitude, and every other one halves it. -/
theorem tdiv_val_inRange (hover : ¬(a.sg = true ∧ val a = -2 ^ (widthOf a.wc - 1) ∧ val b = -1)) :
    inRange ((val a).tdiv (val b)) (widthOf a.wc) a.sg = true := by
  have habs : ((val a).tdiv (val b)).natAbs = (val a).natAbs / (val b).natAbs := Int.natAbs_tdiv _ _
  have hle : (val a).natAbs / (val b).natAbs ≤ (val a).natAbs := Nat.div_le_self _ _
  cases hsg : a.sg with
  | false =>
    have ha := val_bounds_unsigned hsg
    have hq := Int.tdiv_nonneg ha.1 (val_bounds_unsigned (h.2.symm.trans hsg)).1
    rw [inRange_unsigned_iff]
    omega
  | true =>
    have ha := val_bounds_signed hsg
    rw [inRange_signed_iff]
    by_cases hone : val b = 1
    · rw [hone, Int.tdiv_one]
      exact ha
    by_cases hneg : val b = -1
    · have hmin : val a ≠ -2 ^ (widthOf a.wc - 1) := fun hmin => hover ⟨hsg, hmin, hneg⟩
      rw [hneg, Int.tdiv_neg, Int.tdiv_one]
      omega
    · have htwo : 2 ≤ (val b).natAbs := by omega
      have hhalf : (val a).natAbs / (val b).natAbs ≤ (val a).natAbs / 2 := Nat.div_le_div_left htwo (by decide)
      have hpos : (0 : Int) < 2 ^ (widthOf a.wc - 1) := by positivity
      omega

end

/-! ## What DIVREM answers -/

section
variable {s : State} {rd rs1 rs2 rd2 : RegIx}

theorem srcPair_empty (h : (s.readV rs1).valid = false ∨ (s.readV rs2).valid = false) :
    srcPair s rs1 rs2 = .error .uninitialized := by
  rcases srcPair_cases s rs1 rs2 with ⟨-, e⟩ | ⟨h1, h2, -⟩ | ⟨h1, h2, -⟩
  · exact e
  · simp [h1, h2] at h
  · simp [h1, h2] at h

theorem srcPair_unlike (h1 : (s.readV rs1).valid = true) (h2 : (s.readV rs2).valid = true)
    (h : ¬SameType (s.readV rs1) (s.readV rs2)) : srcPair s rs1 rs2 = .error .typeMismatch := by
  rcases srcPair_cases s rs1 rs2 with ⟨hempty, -⟩ | ⟨-, -, -, e⟩ | ⟨-, -, hsame, -⟩
  · simp [h1, h2] at hempty
  · exact e
  · exact absurd hsame h

theorem onlyRegs_writeV_writeV_succeed (s : State) (rd rd2 : RegIx) (q r : VReg) (op : Opcode) :
    OnlyRegs [rd, rd2] s (((s.writeV rd q).writeV rd2 r).succeed op) := by
  refine ⟨fun j hj => ?_, rfl, rfl, rfl, rfl, rfl, rfl, rfl⟩
  obtain ⟨hrd, hrd2⟩ : j ≠ rd ∧ j ≠ rd2 := by simpa using hj
  rw [State.readV_succeed, State.readV_writeV_ne _ _ _ _ hrd2, State.readV_writeV_ne _ _ _ _ hrd]

/-- A DIVREM that raises no error stores quotient and remainder of the division toward zero. -/
theorem divrem_writes (hne : rd ≠ rd2) (h1 : (s.readV rs1).valid = true) (h2 : (s.readV rs2).valid = true)
    (h : SameType (s.readV rs1) (s.readV rs2)) (h0 : val (s.readV rs2) ≠ 0) :
    ∃ t, exec (.divrem rd rs1 rs2 rd2) s = .next t ∧ Succeeded 0x0B t ∧ OnlyRegs [rd, rd2] s t ∧
      t.readV rd = mk (s.readV rs1).wc (s.readV rs1).sg ((val (s.readV rs1)).tdiv (val (s.readV rs2))) ∧
      t.readV rd2 = mk (s.readV rs1).wc (s.readV rs1).sg ((val (s.readV rs1)).tmod (val (s.readV rs2))) := by
  refine ⟨_, execDivrem_ok hne h1 h2 h h0, succeed_succeeded _ _, onlyRegs_writeV_writeV_succeed _ _ _ _ _ _, ?_, ?_⟩
  · rw [State.readV_succeed, State.readV_writeV_ne _ _ _ _ hne, State.readV_writeV_self, quotient_val_eq_tdiv h]
  · rw [State.readV_succeed, State.readV_writeV_self, quotient_val_eq_tdiv h, sub_tdiv_mul_eq_tmod]

end

/-! ## The rules -/

/-- DIVREM's word selects its row for equal destinations too, which R100 and not the row forbids. -/
theorem selectsRow_encode_divrem (rd rs1 rs2 rd2 : RegIx) :
    SelectsRow (encode (.divrem rd rs1 rs2 rd2)) (rowOf (.divrem rd rs1 rs2 rd2)) :=
  (selectsRow_iff _ _).mpr ⟨Laws.EncodeOpcode.divrem rd rs1 rs2 rd2,
    ⟨wcField_packFields .., sgField_packFields .., cntField_packFields ..⟩⟩

/-- Settles O21, one lemma per error and `divrem_writes` for the success. -/
theorem divremFollowsRule : Obligations.DivremFollowsRule := by
  intro s rd rs1 rs2 rd2
  refine ⟨selectsRow_encode_divrem rd rs1 rs2 rd2, fun heq => ?_, fun hne hempty => ?_,
    fun hne h1 h2 hunlike => ?_, fun hne h1 h2 htype hzero => ?_, fun hne h1 h2 htype h0 => ?_⟩
  · exact ⟨_, execDivrem_sameDestinations heq, fail_failedWith _ _ _⟩
  · exact ⟨_, execDivrem_operandError hne (srcPair_empty hempty), fail_failedWith _ _ _⟩
  · exact ⟨_, execDivrem_operandError hne (srcPair_unlike h1 h2 hunlike), fail_failedWith _ _ _⟩
  · exact ⟨_, execDivrem_byZero hne h1 h2 htype hzero, fail_failedWith _ _ _⟩
  · obtain ⟨t, hexec, hok, hframe, hq, hr⟩ := divrem_writes hne h1 h2 htype h0
    rw [← sub_tdiv_mul_eq_tmod, ← quotient_val_eq_tdiv htype] at hr
    rw [← quotient_val_eq_tdiv htype] at hq
    refine ⟨t, hexec, hok, hframe, fun hsg => ?_, fun hsg => ?_⟩
    · rw [hq, hr, hsg]
      exact ⟨rfl, rfl⟩
    · rw [hq, hr, hsg]
      exact ⟨rfl, rfl⟩

/-- Settles O22: what is stored is in range, so quotient and remainder read back as they were computed. -/
theorem divremQuotientAndRemainder : Obligations.DivremQuotientAndRemainder := by
  intro s rd rs1 rs2 rd2 hne h1 h2 htype h0
  obtain ⟨t, hexec, -, -, hq, hr⟩ := divrem_writes hne h1 h2 htype h0
  have hrem : val (t.readV rd2) = (val (s.readV rs1)).tmod (val (s.readV rs2)) := by
    rw [hr, val_mk_of_inRange _ _ _ (tmod_val_inRange htype h0)]
  refine ⟨t, hexec, ?_, ?_, fun hover => ?_⟩
  · rw [hrem]
    exact natAbs_tmod_lt h0
  · rw [hrem]
    exact tmod_sign _ _
  · have hquot : val (t.readV rd) = (val (s.readV rs1)).tdiv (val (s.readV rs2)) := by
      rw [hq, val_mk_of_inRange _ _ _ (tdiv_val_inRange htype h0 hover)]
    rw [hrem, hquot]
    exact ⟨(Int.tdiv_mul_add_tmod _ _).symm, tdiv_sign _ _⟩

/-- The exact quotient of MIN / -1 wraps to MIN (R163). -/
theorem mk_wraps_to_min (wc : WidthCode) (sg : Bool) :
    mk wc sg (2 ^ (widthOf wc - 1)) = mk wc sg (-2 ^ (widthOf wc - 1)) := by
  have hdouble : (2 : Int) ^ (widthOf wc - 1) = -2 ^ (widthOf wc - 1) + 2 ^ widthOf wc := by
    have := pow_succ' (2 : Int) (widthOf wc - 1)
    rw [Nat.sub_add_cancel (widthOf_pos wc)] at this
    omega
  apply mk_congr
  calc (2 : Int) ^ (widthOf wc - 1) % 2 ^ widthOf wc
      = (-2 ^ (widthOf wc - 1) + 2 ^ widthOf wc) % 2 ^ widthOf wc := by rw [← hdouble]
    _ = -2 ^ (widthOf wc - 1) % 2 ^ widthOf wc := Int.add_emod_right _ _

/-- Settles O23: the quotient wraps (`mk_wraps_to_min`) and the division is exact. -/
theorem signedDivisionOverflowWraps : Obligations.SignedDivisionOverflowWraps := by
  intro s rd rs1 rs2 rd2 hne h1 h2 htype hsg hmin hneg
  obtain ⟨t, hexec, hok, hframe, hq, hr⟩ := divrem_writes hne h1 h2 htype (by rw [hneg]; decide)
  have hrange := val_inRange (s.readV rs1)
  rw [hneg, Int.tdiv_neg, Int.tdiv_one, hmin, neg_neg, mk_wraps_to_min] at hq
  rw [hneg, Int.tmod_neg, Int.tmod_one] at hr
  rw [hmin] at hrange
  exact ⟨t, hexec, hok, hframe, by rw [hq, val_mk_of_inRange _ _ _ hrange], by rw [hr, val_mk_zero]⟩

/-- A product and a sum taken through registers are the exact ones modulo `2^w`. -/
theorem stored_mul_add_modEq (wc : WidthCode) (sg : Bool) (q y r : Int) :
    val (mk wc sg (val (mk wc sg q) * y)) + val (mk wc sg r) ≡ q * y + r [ZMOD 2 ^ widthOf wc] := by
  have hq := val_mk_modEq wc sg q
  have hprod := val_mk_modEq wc sg (val (mk wc sg q) * y)
  exact (hprod.trans (hq.mul_right y)).add (val_mk_modEq wc sg r)

/-- Settles O37: modulo `2^w`, what the registers store is the quotient times the divisor plus the remainder. -/
theorem divisionIdentity : Obligations.DivisionIdentity := by
  intro s a b q r p ha hb htype hcanon h0 hqr hbq hbr hpr
  obtain ⟨t, ht, -, hkeep, hq, hr⟩ := divrem_writes hqr ha hb htype h0
  have htb : t.readV b = s.readV b := hkeep.readV_eq (by simp [hbq, hbr])
  obtain ⟨u, hu, -, hkeep', hp⟩ := mul_writes (s := t) (rs1 := q) (rs2 := b) p
    (by rw [hq, mk_valid]) (by rw [htb, hb]) (by rw [hq, htb]; exact htype)
  have hur : u.readV r = t.readV r := hkeep'.readV_eq (by simpa using hpr.symm)
  rw [hq, htb, mk_wc, mk_sg] at hp
  obtain ⟨v, hv, -, -, hvp⟩ := add_writes (s := u) (rs1 := p) (rs2 := r) p
    (by rw [hp, mk_valid]) (by rw [hur, hr, mk_valid]) (by rw [hp, hur, hr]; exact ⟨rfl, rfl⟩)
  refine ⟨t, u, v, ht, hu, hv, ?_⟩
  rw [hvp, hp, hur, hr, mk_wc, mk_sg, mk_congr _ _ (stored_mul_add_modEq ..), Int.tdiv_mul_add_tmod]
  exact (hcanon ha).symm

end Sys2Proof.Machine
end

section
/-! SUPPORT. The reference datapaths of ADD, SUB and MUL (41_arith.md R151, R154, R157). Each writes a word and passes
on what does not fit in it; so its `n` words are the exact result modulo `2^(32n)`, and `mk` keeps the low `w ≤ 32n`
bits. -/

namespace Sys2Proof.Machine

/-! ## Word vectors modulo `2^(32n)` -/

theorem wordsNat_cons (x : Word) (ws : List Word) : (wordsNat (x :: ws) : Int) = x.toNat + 2 ^ 32 * wordsNat ws := by
  rw [wordsNat]
  push_cast
  ring

/-- A lowest word stands below words that are known modulo `2^(32n)`. -/
theorem wordsNat_cons_modEq {x : Word} {ws : List Word} {n : Nat} {z : Int} (h : wordsNat ws ≡ z [ZMOD 2 ^ (32 * n)]) :
    wordsNat (x :: ws) ≡ x.toNat + 2 ^ 32 * z [ZMOD 2 ^ (32 * (n + 1))] := by
  have hpow : (2 : Int) ^ (32 * (n + 1)) = 2 ^ 32 * 2 ^ (32 * n) := by rw [← pow_add]; congr 1; ring
  rw [wordsNat_cons, hpow]
  exact (h.mul_left' (c := 2 ^ 32)).add_left _

/-- One step of a word-by-word computation: of a column result `u` the low 32 bits stay in the word, and the rest is
passed on to the words above. -/
theorem wordsNat_column_modEq {u z : Int} {ws : List Word} {n : Nat}
    (h : wordsNat ws ≡ z + u / 2 ^ 32 [ZMOD 2 ^ (32 * n)]) :
    wordsNat (BitVec.ofNat 32 (truncBits 32 u) :: ws) ≡ u + 2 ^ 32 * z [ZMOD 2 ^ (32 * (n + 1))] := by
  have hword : ((BitVec.ofNat 32 (truncBits 32 u)).toNat : Int) = u % 2 ^ 32 := by
    rw [BitVec.toNat_ofNat, Nat.mod_eq_of_lt (truncBits_lt 32 u), truncBits_cast]
  have hcons := wordsNat_cons_modEq (x := BitVec.ofNat 32 (truncBits 32 u)) h
  have hsplit : u % 2 ^ 32 + 2 ^ 32 * (z + u / 2 ^ 32) = u + 2 ^ 32 * z := by
    have := Int.emod_add_mul_ediv u (2 ^ 32)
    linarith
  rwa [hword, hsplit] at hcons

/-- The column step on a natural column result, as the adder and the multiplier write it. -/
theorem wordsNat_natColumn_modEq {u : Nat} {z : Int} {ws : List Word} {n : Nat}
    (h : wordsNat ws ≡ z + (u >>> 32 : Nat) [ZMOD 2 ^ (32 * n)]) :
    wordsNat (BitVec.ofNat 32 (u % 2 ^ 32) :: ws) ≡ u + 2 ^ 32 * z [ZMOD 2 ^ (32 * (n + 1))] := by
  rw [← truncBits_natCast]
  apply wordsNat_column_modEq
  rw [Nat.shiftRight_eq_div_pow] at h
  exact_mod_cast h

/-- Canonicalizing words that are an integer modulo `2^(32n)` gives what `mk` stores for the integer. -/
theorem mkWords_eq_mk {wc : WidthCode} {ws : List Word} {x : Int} (sg : Bool)
    (h : wordsNat ws ≡ x [ZMOD 2 ^ (32 * wordsOf wc)]) : mkWords wc sg ws = mk wc sg x :=
  mk_congr wc sg (h.of_dvd (pow_dvd_pow 2 (widthOf_le_words wc)))

theorem wordsNat_valueWords_modEq (a : VReg) : wordsNat (valueWords a) ≡ val a [ZMOD 2 ^ widthOf a.wc] := by
  refine Int.ModEq.trans ?_ (val_modEq_pat a).symm
  rw [pat]
  push_cast
  exact (Int.mod_modEq _ _).symm

theorem SameType.length_valueWords {a b : VReg} (h : SameType a b) : (valueWords b).length = wordsOf a.wc := by
  rw [Machine.length_valueWords, h.1]

theorem SameType.wordsNat_valueWords_modEq {a b : VReg} (h : SameType a b) :
    wordsNat (valueWords b) ≡ val b [ZMOD 2 ^ widthOf a.wc] := by
  rw [h.1]
  exact Machine.wordsNat_valueWords_modEq b

/-! ## Adder and subtractor -/

theorem rippleAdd_modEq : ∀ (xs ys : List Word) (c : Nat), ys.length = xs.length →
    wordsNat (rippleAdd xs ys c) ≡ wordsNat xs + wordsNat ys + c [ZMOD 2 ^ (32 * xs.length)]
  | [], _, _, _ => by simpa using Int.modEq_one
  | x :: xs, y :: ys, c, h => by
    have ih := rippleAdd_modEq xs ys ((x.toNat + y.toNat + c) >>> 32) (by simpa using h)
    have hstep := wordsNat_natColumn_modEq ih
    have hsum : ((x.toNat + y.toNat + c : Nat) : Int) + 2 ^ 32 * (wordsNat xs + wordsNat ys) =
        wordsNat (x :: xs) + wordsNat (y :: ys) + c := by
      rw [wordsNat_cons, wordsNat_cons]
      push_cast
      ring
    rwa [hsum] at hstep

/-- A borrow is what a difference of words and a borrow passes on, as the quotient by `2^32` rounded down. -/
theorem borrow_eq_neg_ediv (x y : Word) {bo : Int} (h0 : 0 ≤ bo) (h1 : bo ≤ 1) :
    ((x.toNat : Int) - y.toNat - bo) / 2 ^ 32 = -(if (x.toNat : Int) - y.toNat - bo < 0 then 1 else 0) := by
  have hx := x.isLt
  have hy := y.isLt
  split_ifs <;> omega

theorem rippleSub_modEq : ∀ (xs ys : List Word) (bo : Int), ys.length = xs.length → 0 ≤ bo → bo ≤ 1 →
    wordsNat (rippleSub xs ys bo) ≡ wordsNat xs - wordsNat ys - bo [ZMOD 2 ^ (32 * xs.length)]
  | [], _, _, _, _, _ => by simpa using Int.modEq_one
  | x :: xs, y :: ys, bo, h, h0, h1 => by
    have hborrow := borrow_eq_neg_ediv x y h0 h1
    have ih := rippleSub_modEq xs ys (if (x.toNat : Int) - y.toNat - bo < 0 then 1 else 0) (by simpa using h)
      (by split_ifs <;> decide) (by split_ifs <;> decide)
    rw [sub_eq_add_neg _ (ite _ _ _), ← hborrow] at ih
    have hstep := wordsNat_column_modEq ih
    have hdiff : (x.toNat : Int) - y.toNat - bo + 2 ^ 32 * (wordsNat xs - wordsNat ys) =
        wordsNat (x :: xs) - wordsNat (y :: ys) - bo := by
      rw [wordsNat_cons, wordsNat_cons]
      ring
    rwa [hdiff] at hstep

section
variable {a b : VReg} (h : SameType a b)
include h

theorem datapathAdd_eq : datapathAdd a b = mk a.wc a.sg (val a + val b) := by
  have hsum := rippleAdd_modEq (valueWords a) (valueWords b) 0 (by rw [h.length_valueWords, length_valueWords])
  rw [length_valueWords, Nat.cast_zero, add_zero] at hsum
  rw [datapathAdd, mkWords_eq_mk _ hsum]
  exact mk_congr _ _ ((wordsNat_valueWords_modEq a).add h.wordsNat_valueWords_modEq)

theorem datapathSub_eq : datapathSub a b = mk a.wc a.sg (val a - val b) := by
  have hdiff := rippleSub_modEq (valueWords a) (valueWords b) 0 (by rw [h.length_valueWords, length_valueWords])
    le_rfl (by decide)
  rw [length_valueWords, sub_zero] at hdiff
  rw [datapathSub, mkWords_eq_mk _ hdiff]
  exact mk_congr _ _ ((wordsNat_valueWords_modEq a).sub h.wordsNat_valueWords_modEq)

end

/-- Settles O55: both datapaths compute the exact result modulo `2^(32n)`. -/
theorem adderDatapathsAgree : Obligations.AdderDatapathsAgree := by
  intro s rd rs1 rs2 h1 h2 htype
  rw [datapathAdd_eq htype, datapathSub_eq htype]
  obtain ⟨t, ht, -, -, hsum⟩ := add_writes rd h1 h2 htype
  obtain ⟨u, hu, -, -, hdiff⟩ := sub_writes rd h1 h2 htype
  exact ⟨⟨t, ht, hsum⟩, ⟨u, hu, hdiff⟩⟩

/-! ## Multiplier -/

theorem length_mulRow (x : Word) : ∀ (ts bs : List Word) (c : Nat), ts.length ≤ bs.length →
    (mulRow x ts bs c).length = ts.length
  | [], _, _, _ => by simp [mulRow]
  | t :: ts, b :: bs, c, h => by simpa [mulRow] using length_mulRow x ts bs _ (by simpa using h)

/-- A row adds one partial product, in as many words as the accumulator has left. -/
theorem mulRow_modEq (x : Word) : ∀ (ts bs : List Word) (c : Nat), ts.length ≤ bs.length →
    wordsNat (mulRow x ts bs c) ≡ wordsNat ts + x.toNat * wordsNat bs + c [ZMOD 2 ^ (32 * ts.length)]
  | [], _, _, _ => by simpa using Int.modEq_one
  | t :: ts, b :: bs, c, h => by
    have ih := mulRow_modEq x ts bs ((t.toNat + x.toNat * b.toNat + c) >>> 32) (by simpa using h)
    have hstep := wordsNat_natColumn_modEq ih
    have hsum : ((t.toNat + x.toNat * b.toNat + c : Nat) : Int) + 2 ^ 32 * (wordsNat ts + x.toNat * wordsNat bs) =
        wordsNat (t :: ts) + x.toNat * wordsNat (b :: bs) + c := by
      rw [wordsNat_cons, wordsNat_cons]
      push_cast
      ring
    rwa [hsum] at hstep

/-- The rows add up to the product: the lowest word of each row is final, and the others go into the next. -/
theorem schoolbookMul_modEq (bs : List Word) : ∀ (xs acc : List Word), acc.length = xs.length → xs.length ≤ bs.length →
    wordsNat (schoolbookMul bs xs acc) ≡ wordsNat acc + wordsNat xs * wordsNat bs [ZMOD 2 ^ (32 * xs.length)]
  | [], _, _, _ => by simpa using Int.modEq_one
  | x :: xs, acc, hacc, hle => by
    have hfits : acc.length ≤ bs.length := hacc.trans_le hle
    have hlen := (length_mulRow x acc bs 0 hfits).trans hacc
    have hrow := mulRow_modEq x acc bs 0 hfits
    rw [hacc, Nat.cast_zero, add_zero] at hrow
    rw [schoolbookMul]
    match hmul : mulRow x acc bs 0 with
    | [] => simp [hmul] at hlen
    | t :: ts =>
      rw [hmul] at hrow hlen
      have ih := schoolbookMul_modEq bs xs ts (by simpa using hlen) (Nat.le_of_succ_le hle)
      calc (wordsNat (t :: schoolbookMul bs xs ts) : Int)
          ≡ t.toNat + 2 ^ 32 * (wordsNat ts + wordsNat xs * wordsNat bs) [ZMOD 2 ^ (32 * (x :: xs).length)] :=
            wordsNat_cons_modEq ih
        _ = wordsNat (t :: ts) + 2 ^ 32 * (wordsNat xs * wordsNat bs) := by rw [wordsNat_cons]; ring
        _ ≡ wordsNat acc + x.toNat * wordsNat bs + 2 ^ 32 * (wordsNat xs * wordsNat bs)
            [ZMOD 2 ^ (32 * (x :: xs).length)] := hrow.add_right _
        _ = wordsNat acc + wordsNat (x :: xs) * wordsNat bs := by rw [wordsNat_cons]; ring

theorem wordsNat_replicate_zero (n : Nat) : wordsNat (List.replicate n 0) = 0 :=
  wordsNat_of_all_zero _ fun _ => List.eq_of_mem_replicate

theorem datapathMul_eq {a b : VReg} (h : SameType a b) : datapathMul a b = mk a.wc a.sg (val a * val b) := by
  have hprod := schoolbookMul_modEq (valueWords b) (valueWords a) (List.replicate (wordsOf a.wc) 0)
    (by rw [List.length_replicate, length_valueWords]) (by rw [h.length_valueWords, length_valueWords])
  rw [length_valueWords, wordsNat_replicate_zero, Nat.cast_zero, zero_add] at hprod
  rw [datapathMul, mkWords_eq_mk _ hprod]
  exact mk_congr _ _ ((wordsNat_valueWords_modEq a).mul h.wordsNat_valueWords_modEq)

/-- Settles O56: the rows add up to the exact product modulo `2^(32n)`. -/
theorem multiplierDatapathAgrees : Obligations.MultiplierDatapathAgrees := by
  intro s rd rs1 rs2 h1 h2 htype
  rw [datapathMul_eq htype]
  obtain ⟨t, ht, -, -, hprod⟩ := mul_writes rd h1 h2 htype
  exact ⟨t, ht, hprod⟩

end Sys2Proof.Machine
end

section
/-! SUPPORT. The restoring divider of DIVREM (41_arith.md R165): long division of the magnitudes, whose quotient and
remainder take the signs of the division toward zero. -/

namespace Sys2Proof.Machine

/-- The low `i + 1` bits of a number are its bit `i` above its low `i` bits. -/
theorem mod_two_pow_succ_eq_testBit (x i : Nat) : x % 2 ^ (i + 1) = (x.testBit i).toNat * 2 ^ i + x % 2 ^ i := by
  rw [Nat.mod_pow_succ, Nat.toNat_testBit]
  ring

/-- With `i` bits of the dividend left, the divider adds to its quotient the quotient of what is left to divide, the
remainder so far above those bits, and ends with its remainder. -/
theorem restoringDiv_eq {x y : Nat} : ∀ (i q rm : Nat), rm < y →
    restoringDiv x y i q rm = (q + (rm * 2 ^ i + x % 2 ^ i) / y, (rm * 2 ^ i + x % 2 ^ i) % y)
  | 0, q, rm, h => by simp [restoringDiv, Nat.mod_one, Nat.div_eq_of_lt h, Nat.mod_eq_of_lt h]
  | i + 1, q, rm, h => by
    have hleft : rm * 2 ^ (i + 1) + x % 2 ^ (i + 1) = (2 * rm + (x.testBit i).toNat) * 2 ^ i + x % 2 ^ i := by
      rw [mod_two_pow_succ_eq_testBit]
      ring
    have hbit := (x.testBit i).toNat_le
    rw [hleft, restoringDiv]
    generalize hr : 2 * rm + (x.testBit i).toNat = r
    split_ifs with hge
    · have hrest : r * 2 ^ i + x % 2 ^ i = (r - y) * 2 ^ i + x % 2 ^ i + y * 2 ^ i := by
        obtain ⟨d, rfl⟩ := Nat.exists_eq_add_of_le hge
        rw [Nat.add_sub_cancel_left]
        ring
      rw [restoringDiv_eq i _ (r - y) (by omega), hrest, Nat.add_mul_div_left _ _ (by omega), Nat.add_mul_mod_self_left]
      congr 1
      omega
    · rw [restoringDiv_eq i q r (by omega)]

/-- From nothing found and all `w` bits left, the divider gives quotient and remainder of a `w`-bit dividend. -/
theorem restoringDiv_zero_zero {w x y : Nat} (hx : x < 2 ^ w) (hy : 0 < y) :
    restoringDiv x y w 0 0 = (x / y, x % y) := by
  simp [restoringDiv_eq w 0 0 hy, Nat.mod_eq_of_lt hx]

/-- The quotient toward zero, from the magnitudes: negative if one operand is (R162). -/
theorem tdiv_eq_of_natAbs (x y : Int) : x.tdiv y =
    if (decide (x < 0) != decide (y < 0)) = true then -((x.natAbs / y.natAbs : Nat) : Int)
    else (x.natAbs / y.natAbs : Nat) := by
  have habs : (x.tdiv y).natAbs = x.natAbs / y.natAbs := Int.natAbs_tdiv x y
  have hsign := tdiv_sign x y
  rw [← habs]
  split_ifs with hdiffer <;> rw [bne_iff_ne, ne_eq, decide_eq_decide] at hdiffer <;> omega

/-- The remainder toward zero, from the magnitudes: negative if the dividend is (R162). -/
theorem tmod_eq_of_natAbs (x y : Int) : x.tmod y =
    if decide (x < 0) = true then -((x.natAbs % y.natAbs : Nat) : Int) else (x.natAbs % y.natAbs : Nat) := by
  have hsign := tmod_sign x y
  rw [← Int.natAbs_tmod]
  split_ifs with hneg <;> rw [decide_eq_true_iff] at hneg <;> omega

/-- A magnitude fits in `w` bits, that of MIN included. -/
theorem natAbs_val_lt (a : VReg) : (val a).natAbs < 2 ^ widthOf a.wc := by
  have hpos : (0 : Int) < 2 ^ (widthOf a.wc - 1) := by positivity
  have hdouble : (2 : Int) ^ widthOf a.wc = 2 * 2 ^ (widthOf a.wc - 1) := by
    rw [← pow_succ', Nat.sub_add_cancel (widthOf_pos a.wc)]
  zify
  rw [abs_lt, hdouble]
  cases hsg : a.sg with
  | false =>
    have := val_bounds_unsigned hsg
    omega
  | true =>
    have := val_bounds_signed hsg
    omega

/-- Only a signed value is negative, so the divider's test of the signedness before a sign decides nothing. -/
theorem sg_and_neg (a : VReg) : (a.sg && decide (val a < 0)) = decide (val a < 0) := by
  cases hsg : a.sg with
  | false => simpa using (val_bounds_unsigned hsg).1
  | true => rfl

theorem sg_and_signs_differ {a b : VReg} (h : SameType a b) :
    (a.sg && (decide (val a < 0) != decide (val b < 0))) = (decide (val a < 0) != decide (val b < 0)) := by
  rw [← sg_and_neg a, ← sg_and_neg b, ← h.2]
  cases a.sg <;> rfl

theorem datapathDivrem_eq {a b : VReg} (h : SameType a b) (hb : val b ≠ 0) :
    datapathDivrem a b = (mk a.wc a.sg ((val a).tdiv (val b)), mk a.wc a.sg ((val a).tmod (val b))) := by
  have hdiv := restoringDiv_zero_zero (natAbs_val_lt a) (Int.natAbs_pos.mpr hb)
  rw [datapathDivrem, hdiv, sg_and_signs_differ h, sg_and_neg, tdiv_eq_of_natAbs, tmod_eq_of_natAbs]

/-- Settles O57: the divider and DIVREM both compute the division toward zero. -/
theorem dividerDatapathAgrees : Obligations.DividerDatapathAgrees := by
  intro s rd rs1 rs2 rd2 hne h1 h2 htype h0
  obtain ⟨t, ht, -, -, hq, hr⟩ := divrem_writes hne h1 h2 htype h0
  exact ⟨t, ht, by rw [datapathDivrem_eq htype h0, hq, hr]⟩

end Sys2Proof.Machine
end

section
/-! SUPPORT. SHL, SHR, AND, OR, XOR, NOT and CMP (42_shift_logic_compare.md R180 to R192). A shift right divides the
value and rounds down, at both signednesses and for every amount; a bitwise command is known by the bits of its
pattern. -/

namespace Sys2Proof.Machine

/-! ## What a shift answers -/

theorem exec_shl (rd rs1 : RegIx) (s : State) : exec (.shl rd rs1) s = shiftToV 0x0C rd rs1 shiftLeft s := rfl

theorem exec_shr (rd rs1 : RegIx) (s : State) : exec (.shr rd rs1) s = shiftToV 0x0D rd rs1 shiftRight s := rfl

theorem toInt_arg_of_nonneg {s : State} (h : 0 ≤ s.arg.toInt) : s.arg.toInt = s.arg.toNat := by
  rw [← sarg_eq] at *
  rw [← toNat_sarg h, Int.toNat_of_nonneg h]

/-- A shift by an amount that is not negative stores the shifted value. -/
theorem shiftToV_writes {s : State} {rs1 : RegIx} (op : Opcode) (rd : RegIx) (f : VReg → Nat → Int)
    (hv : (s.readV rs1).valid = true) (harg : 0 ≤ s.arg.toInt) :
    ∃ t, shiftToV op rd rs1 f s = .next t ∧ Succeeded op t ∧ OnlyRegs [rd] s t ∧
      t.readV rd = mk (s.readV rs1).wc (s.readV rs1).sg (f (s.readV rs1) s.arg.toNat) := by
  rw [← sarg_eq] at harg
  refine ⟨_, shiftToV_ok hv harg, succeed_succeeded _ _, onlyRegs_writeV_succeed _ _ _ _, ?_⟩
  rw [State.readV_succeed, State.readV_writeV_self, toNat_sarg harg]

/-- The two errors of a shift. -/
theorem shiftToV_fails (op : Opcode) (rd rs1 : RegIx) (f : VReg → Nat → Int) (s : State) :
    ((s.readV rs1).valid = false → ∃ t, shiftToV op rd rs1 f s = .next t ∧ FailedWith op .uninitialized s t) ∧
    ((s.readV rs1).valid = true → s.arg.toInt < 0 →
      ∃ t, shiftToV op rd rs1 f s = .next t ∧ FailedWith op .invalidShiftAmount s t) := by
  rw [← sarg_eq]
  exact ⟨fun hv => ⟨_, shiftToV_uninitialized hv, fail_failedWith _ _ _⟩,
    fun hv hneg => ⟨_, shiftToV_negative hv hneg, fail_failedWith _ _ _⟩⟩

/-! ## Shift left -/

/-- SHL's pattern: an amount of the width or more moves every bit out (R180). -/
theorem truncBits_shiftLeft (a : VReg) (amount : Nat) :
    truncBits (widthOf a.wc) (shiftLeft a amount) = pat a * 2 ^ amount % 2 ^ widthOf a.wc := by
  rw [shiftLeft]
  split_ifs with hout
  · have hdvd : 2 ^ widthOf a.wc ∣ pat a * 2 ^ amount := (pow_dvd_pow 2 hout).mul_left _
    rw [Nat.mod_eq_zero_of_dvd hdvd, truncBits, Int.zero_emod, Int.toNat_zero]
  · exact_mod_cast truncBits_natCast _ _

/-- Settles O24: an amount that is not negative is ARG's unsigned number, and the pattern is `truncBits_shiftLeft`. -/
theorem shlFollowsRule : Obligations.ShlFollowsRule := by
  intro s rd rs1
  rw [exec_shl]
  obtain ⟨hempty, hnegative⟩ := shiftToV_fails 0x0C rd rs1 shiftLeft s
  refine ⟨selectsRow_encode (i := .shl rd rs1) rfl, hempty, hnegative, fun hv harg => ?_⟩
  obtain ⟨t, hexec, hok, hframe, hrd⟩ := shiftToV_writes 0x0C rd shiftLeft hv harg
  refine ⟨t, hexec, hok, hframe, ?_, ?_⟩
  · rw [hrd, shiftLeft, toInt_arg_of_nonneg harg]
    simp only [ge_iff_le, Nat.cast_le]
  · rw [hrd, pat_mk, truncBits_shiftLeft]

/-! ## Shift right -/

/-- A number divided by one that is larger than its magnitude leaves its sign. -/
theorem ediv_eq_of_natAbs_lt {x d : Int} (h : x.natAbs < d) : x / d = if x < 0 then -1 else 0 := by
  split_ifs with hneg
  · rw [Int.ediv_eq_iff_of_pos (by omega)]
    omega
  · exact Int.ediv_eq_zero_of_lt (by omega) (by omega)

/-- An amount of the width or more leaves the sign of the value (R183). -/
theorem val_ediv_of_width_le (a : VReg) {amount : Nat} (h : widthOf a.wc ≤ amount) :
    val a / 2 ^ amount = if val a < 0 then -1 else 0 := by
  have hlt : (val a).natAbs < 2 ^ amount := (natAbs_val_lt a).trans_le (Nat.pow_le_pow_right (by decide) h)
  exact ediv_eq_of_natAbs_lt (by exact_mod_cast hlt)

theorem val_of_unsigned {a : VReg} (h : a.sg = false) : val a = pat a := by rw [val, h, if_neg Bool.false_ne_true]

/-- Saturating the amount of a signed shift, or answering 0 for an unsigned one, is still the division (R183). -/
theorem shiftRight_eq_ediv (a : VReg) (amount : Nat) : shiftRight a amount = val a / 2 ^ amount := by
  rw [shiftRight, Int.fdiv_eq_ediv_of_nonneg _ (by positivity), Int.fdiv_eq_ediv_of_nonneg _ (by positivity)]
  cases hsg : a.sg with
  | true =>
    rw [if_pos rfl]
    rcases le_total amount (widthOf a.wc) with hle | hge
    · rw [min_eq_left hle]
    · rw [min_eq_right hge, val_ediv_of_width_le a le_rfl, val_ediv_of_width_le a hge]
  | false =>
    rw [if_neg Bool.false_ne_true]
    split_ifs with hout
    · rw [val_ediv_of_width_le a hout, if_neg (not_lt.mpr (val_bounds_unsigned hsg).1)]
    · rw [val_of_unsigned hsg]

/-- Division by a positive number brings a value nearer to 0 or leaves it, with its sign. -/
theorem val_ediv_inRange (a : VReg) {d : Int} (hd : 0 < d) : inRange (val a / d) (widthOf a.wc) a.sg = true := by
  have habs := Int.natAbs_ediv_le_natAbs (val a) d
  have hsign : 0 ≤ val a / d ↔ 0 ≤ val a := Int.ediv_nonneg_iff_of_pos hd
  cases hsg : a.sg with
  | false =>
    have := val_bounds_unsigned hsg
    rw [inRange_unsigned_iff]
    omega
  | true =>
    have := val_bounds_signed hsg
    have hpos : (0 : Int) < 2 ^ (widthOf a.wc - 1) := by positivity
    rw [inRange_signed_iff]
    omega

/-- Settles O25: what SHR stores is the divided value, which is in the range of the type. -/
theorem shrFollowsRule : Obligations.ShrFollowsRule := by
  intro s rd rs1
  rw [exec_shr]
  obtain ⟨hempty, hnegative⟩ := shiftToV_fails 0x0D rd rs1 shiftRight s
  refine ⟨selectsRow_encode (i := .shr rd rs1) rfl, hempty, hnegative, fun hv harg => ?_⟩
  obtain ⟨t, hexec, hok, hframe, hrd⟩ := shiftToV_writes 0x0D rd shiftRight hv harg
  have hval : val (t.readV rd) = val (s.readV rs1) / 2 ^ s.arg.toNat := by
    rw [hrd, shiftRight_eq_ediv, val_mk_of_inRange _ _ _ (val_ediv_inRange _ (by positivity))]
  refine ⟨t, hexec, hok, hframe, ?_, ?_, ?_, ?_, fun hout => ?_⟩
  · rw [hrd]
    exact ⟨rfl, rfl⟩
  · rw [hrd, mk_valid]
  · rw [hrd]
    exact canonical_mk _ _ _
  · rw [hval, Int.fdiv_eq_ediv_of_nonneg _ (by positivity)]
  · have hsigned : val (s.readV rs1) < 0 → (s.readV rs1).sg = true := fun hneg => by
      by_contra hsg
      exact absurd (val_bounds_unsigned (Bool.eq_false_iff.mpr hsg)).1 (not_le.mpr hneg)
    rw [hval, val_ediv_of_width_le _ hout]
    simp only [and_iff_right_of_imp hsigned]

/-! ## AND, OR and XOR -/

section
variable (rd rs1 rs2 : RegIx) (s : State)

theorem exec_and : exec (.and rd rs1 rs2) s =
    binaryToV 0x0E rd rs1 rs2 (fun a b => ((pat a &&& pat b : Nat) : Int)) s := rfl

theorem exec_or : exec (.or rd rs1 rs2) s =
    binaryToV 0x0F rd rs1 rs2 (fun a b => ((pat a ||| pat b : Nat) : Int)) s := rfl

theorem exec_xor : exec (.xor rd rs1 rs2) s =
    binaryToV 0x10 rd rs1 rs2 (fun a b => ((pat a ^^^ pat b : Nat) : Int)) s := rfl

/-- The rule of a command that combines the patterns by a function `g` that works bit by bit, as `f`. -/
theorem binaryToV_bitwise (op : Opcode) {g : Nat → Nat → Nat} {f : Bool → Bool → Bool}
    (hg : ∀ x y k, (g x y).testBit k = f (x.testBit k) (y.testBit k)) :
    ((s.readV rs1).valid = false ∨ (s.readV rs2).valid = false →
      ∃ t, binaryToV op rd rs1 rs2 (fun a b => (g (pat a) (pat b) : Int)) s = .next t ∧
        FailedWith op .uninitialized s t) ∧
    ((s.readV rs1).valid = true → (s.readV rs2).valid = true → ¬SameType (s.readV rs1) (s.readV rs2) →
      ∃ t, binaryToV op rd rs1 rs2 (fun a b => (g (pat a) (pat b) : Int)) s = .next t ∧
        FailedWith op .typeMismatch s t) ∧
    ((s.readV rs1).valid = true → (s.readV rs2).valid = true → SameType (s.readV rs1) (s.readV rs2) →
      ∃ t, binaryToV op rd rs1 rs2 (fun a b => (g (pat a) (pat b) : Int)) s = .next t ∧ Succeeded op t ∧
        OnlyRegs [rd] s t ∧ SameType (t.readV rd) (s.readV rs1) ∧ (t.readV rd).valid = true ∧
        Canonical (t.readV rd) ∧ ∀ k, k < widthOf (s.readV rs1).wc →
          (pat (t.readV rd)).testBit k = f ((pat (s.readV rs1)).testBit k) ((pat (s.readV rs2)).testBit k)) := by
  obtain ⟨hempty, hunlike, hok⟩ := binaryToV_followsRule op rd rs1 rs2
    (f := fun a b => (g (pat a) (pat b) : Int)) (fun _ _ _ => truncBits_natCast _ _) s
  refine ⟨hempty, hunlike, fun h1 h2 htype => ?_⟩
  obtain ⟨t, hexec, hsucceeded, hframe, hrd, hpat⟩ := hok h1 h2 htype
  refine ⟨t, hexec, hsucceeded, hframe, ?_, ?_, ?_, fun k hk => ?_⟩
  · rw [hrd]
    exact ⟨rfl, rfl⟩
  · rw [hrd, mk_valid]
  · rw [hrd]
    exact canonical_mk _ _ _
  · rw [hpat, Nat.testBit_mod_two_pow, decide_eq_true hk, Bool.true_and, hg]

end

/-- Settles O26: the three functions on natural numbers work bit by bit. -/
theorem bitwiseFollowsRules : Obligations.BitwiseFollowsRules := by
  rintro s rd rs1 rs2 i f row (⟨rfl, rfl, rfl⟩ | ⟨rfl, rfl, rfl⟩ | ⟨rfl, rfl, rfl⟩)
  · rw [exec_and]
    exact ⟨selectsRow_encode (i := .and rd rs1 rs2) rfl, binaryToV_bitwise rd rs1 rs2 s 0x0E Nat.testBit_and⟩
  · rw [exec_or]
    exact ⟨selectsRow_encode (i := .or rd rs1 rs2) rfl, binaryToV_bitwise rd rs1 rs2 s 0x0F Nat.testBit_or⟩
  · rw [exec_xor]
    exact ⟨selectsRow_encode (i := .xor rd rs1 rs2) rfl, binaryToV_bitwise rd rs1 rs2 s 0x10 Nat.testBit_xor⟩

/-! ## NOT -/

section
variable {s : State} {rs1 : RegIx} (rd : RegIx)

theorem exec_not_empty (h : (s.readV rs1).valid = false) :
    exec (.not rd rs1) s = .next (s.fail 0x11 .uninitialized) := by
  rw [exec, execNot, complete_src_empty _ _ h, opcodeOf]

theorem not_writes (h : (s.readV rs1).valid = true) :
    ∃ t, exec (.not rd rs1) s = .next t ∧ Succeeded 0x11 t ∧ OnlyRegs [rd] s t ∧
      t.readV rd = mk (s.readV rs1).wc (s.readV rs1).sg (2 ^ widthOf (s.readV rs1).wc - 1 - pat (s.readV rs1)) := by
  rw [exec, execNot, complete_src_valid _ _ h, complete_ok, opcodeOf]
  exact ⟨_, rfl, succeed_succeeded _ _, onlyRegs_writeV_succeed _ _ _ _,
    by rw [State.readV_succeed, State.readV_writeV_self]⟩

end

/-- What NOT stores, as a natural number: the complement within `w` bits. -/
theorem two_pow_sub_pat (a : VReg) : (2 : Int) ^ widthOf a.wc - 1 - pat a = (2 ^ widthOf a.wc - (pat a + 1) : Nat) := by
  have hlt : pat a + 1 ≤ 2 ^ widthOf a.wc := pat_lt a
  push_cast [hlt]
  ring

/-- The complement of a pattern is minus the value minus 1, modulo `2^w`. -/
theorem complement_modEq (a : VReg) : 2 ^ widthOf a.wc - 1 - (pat a : Int) ≡ -val a - 1 [ZMOD 2 ^ widthOf a.wc] := by
  calc 2 ^ widthOf a.wc - 1 - (pat a : Int)
      = -pat a - 1 + 2 ^ widthOf a.wc := by ring
    _ ≡ -pat a - 1 [ZMOD 2 ^ widthOf a.wc] := Int.add_modEq_right
    _ ≡ -val a - 1 [ZMOD 2 ^ widthOf a.wc] := (val_modEq_pat a).symm.neg.sub_right 1

/-- Settles O27: the complement has the inverted bits, and the signed range is symmetric around -1/2. -/
theorem notFollowsRule : Obligations.NotFollowsRule := by
  intro s rd rs1
  refine ⟨selectsRow_encode (i := .not rd rs1) rfl, fun hv => ?_, fun hv => ?_⟩
  · exact ⟨_, exec_not_empty rd hv, fail_failedWith _ _ _⟩
  · obtain ⟨t, hexec, hok, hframe, hrd⟩ := not_writes rd hv
    refine ⟨t, hexec, hok, hframe, hrd, fun k hk => ?_, fun hsg => ?_⟩
    · rw [hrd, two_pow_sub_pat, pat_mk, truncBits_natCast, Nat.testBit_mod_two_pow,
        Nat.testBit_two_pow_sub_succ (pat_lt _), decide_eq_true hk, Bool.true_and, Bool.true_and]
    · have hrange : inRange (-val (s.readV rs1) - 1) (widthOf (s.readV rs1).wc) (s.readV rs1).sg = true := by
        have := val_bounds_signed hsg
        rw [hsg, inRange_signed_iff]
        omega
      rw [hrd, mk_congr _ _ (complement_modEq _), val_mk_of_inRange _ _ _ hrange]

/-! ## CMP -/

section
variable {s : State} {rs1 rs2 : RegIx}

theorem exec_cmp_error {e : ErrKind} (he : srcPair s rs1 rs2 = .error e) :
    exec (.cmp rs1 rs2) s = .next (s.fail 0x12 e) := by
  rw [exec, execCmp, he, error_bind, complete_error, opcodeOf]

theorem exec_cmp_ok (h1 : (s.readV rs1).valid = true) (h2 : (s.readV rs2).valid = true)
    (h : SameType (s.readV rs1) (s.readV rs2)) : exec (.cmp rs1 rs2) s =
      .next ((s.writeRes (orderWord (val (s.readV rs1)) (val (s.readV rs2)))).succeed 0x12) := by
  rw [exec, execCmp, srcPair_ok h1 h2 h, ok_bind, complete_ok, opcodeOf]

end

/-- Each of the three answers stands for one order (R192). -/
theorem orderWord_iff (x y : Int) :
    (orderWord x y = 0 ↔ x = y) ∧ (orderWord x y = 1 ↔ x < y) ∧ (orderWord x y = 2 ↔ x > y) := by
  rw [orderWord]
  split_ifs with heq hlt
  · exact ⟨iff_of_true rfl heq, iff_of_false (by decide) (by omega), iff_of_false (by decide) (by omega)⟩
  · exact ⟨iff_of_false (by decide) heq, iff_of_true rfl hlt, iff_of_false (by decide) (by omega)⟩
  · exact ⟨iff_of_false (by decide) heq, iff_of_false (by decide) hlt, iff_of_true rfl (by omega)⟩

/-- Settles O28: RES becomes the order of the values. -/
theorem cmpFollowsRule : Obligations.CmpFollowsRule := by
  intro s rs1 rs2
  refine ⟨selectsRow_encode (i := .cmp rs1 rs2) rfl, fun hempty => ?_, fun h1 h2 hunlike => ?_,
    fun h1 h2 htype => ?_⟩
  · exact ⟨_, exec_cmp_error (srcPair_empty hempty), fail_failedWith _ _ _⟩
  · exact ⟨_, exec_cmp_error (srcPair_unlike h1 h2 hunlike), fail_failedWith _ _ _⟩
  · exact ⟨_, exec_cmp_ok h1 h2 htype, succeed_succeeded _ _, onlyRes_writeRes_succeed s _ _, orderWord_iff _ _⟩

end Sys2Proof.Machine
end

section
/-! SUPPORT. The reference datapaths of the shifts and the bitwise commands (42_shift_logic_compare.md R185, R191),
bit by bit: what `mk` stores is fixed by the low `w` bits of an integer, and bit `i` of a word vector is bit `i % 32` of
word `i / 32`. -/

namespace Sys2Proof.Machine

/-! ## The bits of an integer -/

theorem testBit_natCast (n i : Nat) : (n : Int).testBit i = n.testBit i := rfl

theorem testBit_truncBits (m : Nat) (x : Int) (i : Nat) :
    (truncBits m x).testBit i = (decide (i < m) && x.testBit i) := by
  cases x with
  | ofNat n =>
    rw [Int.ofNat_eq_natCast, truncBits_natCast, Nat.testBit_mod_two_pow, testBit_natCast]
  | negSucc n =>
    have hlt : n % 2 ^ m < 2 ^ m := Nat.mod_lt _ (by positivity)
    have hcomplement : truncBits m (.negSucc n) = 2 ^ m - (n % 2 ^ m + 1) := by
      have hle : n % 2 ^ m + 1 ≤ 2 ^ m := hlt
      zify [hle]
      rw [truncBits_cast, Int.negSucc_emod _ (by positivity)]
      ring
    rw [hcomplement, Nat.testBit_two_pow_sub_succ hlt, Nat.testBit_mod_two_pow, Int.testBit]
    cases decide (i < m) <;> rfl

theorem testBit_eq_of_modEq {x y : Int} {m i : Nat} (h : x ≡ y [ZMOD 2 ^ m]) (hi : i < m) :
    x.testBit i = y.testBit i := by
  have htrunc : truncBits m x = truncBits m y := by rw [truncBits, truncBits, h.eq]
  have hbits := testBit_truncBits m x i
  rwa [htrunc, testBit_truncBits, decide_eq_true hi, Bool.true_and, Bool.true_and, eq_comm] at hbits

/-- What `mk` stores is fixed by the low `w` bits. -/
theorem mk_eq_of_testBit {wc : WidthCode} (sg : Bool) {x y : Int}
    (h : ∀ i < widthOf wc, x.testBit i = y.testBit i) : mk wc sg x = mk wc sg y := by
  have htrunc : truncBits (widthOf wc) x = truncBits (widthOf wc) y := by
    apply Nat.eq_of_testBit_eq
    intro i
    rw [testBit_truncBits, testBit_truncBits]
    by_cases hi : i < widthOf wc
    · rw [h i hi]
    · rw [decide_eq_false hi, Bool.false_and, Bool.false_and]
  rw [mk, mk, htrunc]

theorem testBit_ediv_two_pow (x : Int) (k i : Nat) : (x / 2 ^ k).testBit i = x.testBit (k + i) := by
  have hshift : x >>> k = x / 2 ^ k := by
    rw [Int.shiftRight_eq_div_pow]
    push_cast
    rfl
  rw [← hshift]
  cases x with
  | ofNat n => exact Nat.testBit_shiftRight n
  | negSucc n => exact congrArg not (Nat.testBit_shiftRight n)

/-- Above its magnitude a two's-complement integer repeats its sign. -/
theorem testBit_of_natAbs_lt {x : Int} {w i : Nat} (h : x.natAbs < 2 ^ w) (hi : w ≤ i) :
    x.testBit i = decide (x < 0) := by
  have hpow : 2 ^ w ≤ 2 ^ i := Nat.pow_le_pow_right (by decide) hi
  cases x with
  | ofNat n =>
    have hn : n < 2 ^ i := h.trans_le hpow
    rw [Int.ofNat_eq_natCast, testBit_natCast, Nat.testBit_lt_two_pow hn]
    simp
  | negSucc n =>
    have hn : n < 2 ^ i := (Nat.lt_of_succ_lt h).trans_le hpow
    simp [Int.testBit, Nat.testBit_lt_two_pow hn, Int.negSucc_lt_zero]

/-! ## The bits of a word vector -/

/-- Bit `i` of a word vector, with `fill` beyond its end. -/
def vectorBit (ws : List Word) (fill : Word) (i : Nat) : Bool := (wordOr ws fill (i / 32)).getLsbD (i % 32)

theorem vectorBit_of_lt {i : Nat} {ws : List Word} (fill : Word) (h : i / 32 < ws.length) :
    vectorBit ws fill i = ws[i / 32].getLsbD (i % 32) := by
  rw [vectorBit, wordOr, List.getD_eq_getElem _ _ h]

theorem vectorBit_of_ge {i : Nat} {ws : List Word} (fill : Word) (h : ws.length ≤ i / 32) :
    vectorBit ws fill i = fill.getLsbD (i % 32) := by
  rw [vectorBit, wordOr, List.getD_eq_default _ _ h]

/-- A bit of a word vector, its place given as word `q` and bit `r`. -/
theorem vectorBit_eq {i q r : Nat} (ws : List Word) (fill : Word) (hi : i = 32 * q + r) (hr : r < 32) :
    vectorBit ws fill i = (wordOr ws fill q).getLsbD r := by
  have hq : i / 32 = q := by omega
  have hr : i % 32 = r := by omega
  rw [vectorBit, hq, hr]

theorem testBit_wordsNat : ∀ (ws : List Word) (i : Nat), (wordsNat ws).testBit i = vectorBit ws 0 i
  | [], i => by simp [wordsNat, vectorBit, wordOr]
  | x :: xs, i => by
    rw [wordsNat, add_comm, Nat.testBit_two_pow_mul_add _ x.isLt]
    split_ifs with hlow
    · rw [vectorBit_eq (x :: xs) 0 (q := 0) (r := i) (by omega) hlow]
      rfl
    · rw [testBit_wordsNat xs (i - 32), vectorBit_eq (x :: xs) 0 (q := (i - 32) / 32 + 1) (r := (i - 32) % 32)
        (by omega) (by omega)]
      rfl

/-- A value bit of a register is that bit of its stored words. -/
theorem testBit_pat {a : VReg} {i : Nat} (h : i < widthOf a.wc) :
    (pat a).testBit i = vectorBit (valueWords a) 0 i := by
  rw [pat, Nat.testBit_mod_two_pow, decide_eq_true h, Bool.true_and, testBit_wordsNat]

theorem div_lt_wordsOf {wc : WidthCode} {i : Nat} (h : i < widthOf wc) : i / 32 < wordsOf wc := by
  have := widthOf_le_words wc
  omega

/-- Canonicalizing words that have the low `w` bits of an integer gives what `mk` stores for the integer. -/
theorem mkWords_eq_of_vectorBit {wc : WidthCode} (sg : Bool) {ws : List Word} {x : Int}
    (h : ∀ i < widthOf wc, vectorBit ws 0 i = x.testBit i) : mkWords wc sg ws = mk wc sg x :=
  mk_eq_of_testBit sg fun i hi => (testBit_wordsNat ws i).trans (h i hi)

/-! ## AND, OR, XOR and NOT -/

/-- Words combined by `f` are the patterns combined by `g` if both work bit by bit, by the same function. -/
theorem datapathBitwise_eq {a b : VReg} (h : SameType a b) {f : Word → Word → Word} {g : Nat → Nat → Nat}
    {c : Bool → Bool → Bool} (hf : ∀ x y k, k < 32 → (f x y).getLsbD k = c (x.getLsbD k) (y.getLsbD k))
    (hg : ∀ x y k, (g x y).testBit k = c (x.testBit k) (y.testBit k)) :
    datapathBitwise f a b = mk a.wc a.sg (g (pat a) (pat b)) := by
  apply mkWords_eq_of_vectorBit
  intro i hi
  have ha : i / 32 < (valueWords a).length := by rw [length_valueWords]; exact div_lt_wordsOf hi
  have hb : i / 32 < (valueWords b).length := by rw [h.length_valueWords]; exact div_lt_wordsOf hi
  have hzip : i / 32 < (List.zipWith f (valueWords a) (valueWords b)).length := by
    rw [List.length_zipWith]; exact lt_min ha hb
  rw [vectorBit_of_lt _ hzip, List.getElem_zipWith, hf _ _ _ (Nat.mod_lt _ (by decide)), testBit_natCast, hg,
    testBit_pat hi, testBit_pat (h.1 ▸ hi), vectorBit_of_lt _ ha, vectorBit_of_lt _ hb]

theorem datapathNot_eq (a : VReg) : datapathNot a = mk a.wc a.sg (2 ^ widthOf a.wc - 1 - pat a) := by
  rw [two_pow_sub_pat]
  apply mkWords_eq_of_vectorBit
  intro i hi
  have ha : i / 32 < (valueWords a).length := by rw [length_valueWords]; exact div_lt_wordsOf hi
  have hmap : i / 32 < ((valueWords a).map fun x => ~~~x).length := by rw [List.length_map]; exact ha
  rw [vectorBit_of_lt _ hmap, List.getElem_map, BitVec.getLsbD_not, testBit_natCast,
    Nat.testBit_two_pow_sub_succ (pat_lt a), testBit_pat hi, vectorBit_of_lt _ ha,
    decide_eq_true (Nat.mod_lt i (by decide)), decide_eq_true hi]

section
variable {s : State} {rs1 rs2 : RegIx} (rd : RegIx) (h1 : (s.readV rs1).valid = true)
  (h2 : (s.readV rs2).valid = true) (h : SameType (s.readV rs1) (s.readV rs2))
include h1 h2 h

/-- A command that combines the patterns by `g` stores what the words combined by `f` give. -/
theorem binaryToV_datapath (op : Opcode) {f : Word → Word → Word} {g : Nat → Nat → Nat} {c : Bool → Bool → Bool}
    (hf : ∀ x y k, k < 32 → (f x y).getLsbD k = c (x.getLsbD k) (y.getLsbD k))
    (hg : ∀ x y k, (g x y).testBit k = c (x.testBit k) (y.testBit k)) :
    ∃ t, binaryToV op rd rs1 rs2 (fun a b => (g (pat a) (pat b) : Int)) s = .next t ∧
      t.readV rd = datapathBitwise f (s.readV rs1) (s.readV rs2) := by
  obtain ⟨t, ht, -, -, hrd⟩ := binaryToV_writes op rd (fun a b => (g (pat a) (pat b) : Int)) h1 h2 h
  exact ⟨t, ht, hrd.trans (datapathBitwise_eq h hf hg).symm⟩

end

/-- Settles O59: words and natural numbers are combined bit by bit alike. -/
theorem bitwiseDatapathsAgree : Obligations.BitwiseDatapathsAgree := by
  intro s rd rs1 rs2 h1 h2 htype
  rw [exec_and, exec_or, exec_xor, datapathNot_eq]
  obtain ⟨t, ht, -, -, hnot⟩ := not_writes rd h1
  exact ⟨binaryToV_datapath rd h1 h2 htype 0x0E (fun _ _ _ _ => BitVec.getLsbD_and) Nat.testBit_and,
    binaryToV_datapath rd h1 h2 htype 0x0F (fun _ _ _ _ => BitVec.getLsbD_or) Nat.testBit_or,
    binaryToV_datapath rd h1 h2 htype 0x10 (fun _ _ _ _ => BitVec.getLsbD_xor) Nat.testBit_xor, t, ht, hnot⟩

/-! ## The words of a canonical value -/

theorem signOf_eq_decide_neg (a : VReg) : signOf a = decide (val a < 0) := by
  cases hsg : a.sg with
  | false =>
    rw [signOf, hsg, Bool.false_and, eq_comm, decide_eq_false_iff_not, not_lt]
    exact (val_bounds_unsigned hsg).1
  | true => exact signOf_eq_val_neg hsg

theorem val_eq_of_signOf (a : VReg) :
    val a = if signOf a = true then (pat a : Int) - 2 ^ widthOf a.wc else pat a := by
  cases hsg : a.sg <;> simp [val, sval, signOf, hsg]

/-- The stored words of a canonical value, padding included, are the value in two's complement. -/
theorem wordsNat_valueWords_of_canonical {a : VReg} (hv : a.valid = true) (hc : Canonical a) :
    (wordsNat (valueWords a) : Int) = val a + if signOf a = true then 2 ^ (32 * wordsOf a.wc) else 0 := by
  have hpadded : wordsNat (valueWords a) = padded a.wc a.sg (pat a) := by
    rw [hc hv, valueWords_mk, wordsNat_wordAt, truncBits_val, pat_mk, mk_wc, mk_sg, truncBits_val,
      Nat.mod_eq_of_lt (padded_lt _ _ _ (pat_lt a))]
  have hle : 2 ^ widthOf a.wc ≤ 2 ^ (32 * wordsOf a.wc) := Nat.pow_le_pow_right (by decide) (widthOf_le_words a.wc)
  rw [hpadded, padded, ← signOf, val_eq_of_signOf]
  split_ifs
  · push_cast [hle]
    ring
  · rw [add_zero]

theorem shiftFill_eq (a : VReg) : shiftFill a = if signOf a = true then BitVec.allOnes 32 else 0 := rfl

/-- With the fill of a right shift beyond their end, the words of a canonical value have every bit of it. -/
theorem vectorBit_valueWords {a : VReg} (hv : a.valid = true) (hc : Canonical a) (i : Nat) :
    vectorBit (valueWords a) (shiftFill a) i = (val a).testBit i := by
  have hlen := length_valueWords a
  by_cases hi : i < 32 * wordsOf a.wc
  · have hword : i / 32 < (valueWords a).length := by omega
    have hmod : (wordsNat (valueWords a) : Int) ≡ val a [ZMOD 2 ^ (32 * wordsOf a.wc)] := by
      rw [wordsNat_valueWords_of_canonical hv hc]
      split_ifs
      · exact Int.add_modEq_right
      · rw [add_zero]
    rw [vectorBit_of_lt _ hword, ← vectorBit_of_lt 0 hword, ← testBit_wordsNat, ← testBit_natCast,
      testBit_eq_of_modEq hmod hi]
  · have hwidth : widthOf a.wc ≤ i := (widthOf_le_words a.wc).trans (not_lt.mp hi)
    rw [vectorBit_of_ge _ (by omega), testBit_of_natAbs_lt (natAbs_val_lt a) hwidth, ← signOf_eq_decide_neg,
      shiftFill_eq]
    cases signOf a with
    | false => exact BitVec.getLsbD_zero
    | true => rw [if_pos rfl, BitVec.getLsbD_allOnes, decide_eq_true (Nat.mod_lt i (by decide))]

/-! ## Shifts -/

section
variable {k b j l : Nat} (ws : List Word) (fill : Word)

/-- A bit of a word shifted left comes from the word `k` below or, if it is among the low `b`, from the one under it. -/
theorem getLsbD_shiftedLeftWord (hl : l < 32) (hb : b < 32) :
    (shiftedLeftWord ws k b j).getLsbD l =
      (decide (32 * k + b ≤ 32 * j + l) && vectorBit ws 0 (32 * j + l - (32 * k + b))) := by
  rw [shiftedLeftWord, BitVec.getLsbD_or]
  by_cases hlow : l < b
  · by_cases hk : k + 1 ≤ j
    · rw [vectorBit_eq ws 0 (q := j - k - 1) (r := 32 - b + l) (by omega) (by omega), if_pos (by omega),
        if_pos (by omega), decide_eq_true (by omega)]
      simp [hlow]
    · rw [if_neg (c := k + 1 ≤ j ∧ b ≠ 0) (by omega), decide_eq_false (by omega)]
      split_ifs <;> simp [hlow]
  · have hhigh : (if k + 1 ≤ j ∧ b ≠ 0 then wordOr ws 0 (j - k - 1) >>> (32 - b) else 0).getLsbD l = false := by
      split_ifs
      · rw [BitVec.getLsbD_ushiftRight, BitVec.getLsbD_of_ge _ _ (by omega)]
      · simp
    rw [hhigh, Bool.or_false]
    by_cases hk : k ≤ j
    · rw [vectorBit_eq ws 0 (q := j - k) (r := l - b) (by omega) (by omega), if_pos hk, decide_eq_true (by omega),
        BitVec.getLsbD_shiftLeft, decide_eq_true hl, decide_eq_false hlow]
      rfl
    · rw [if_neg hk, decide_eq_false (by omega)]
      simp

/-- A bit of a word shifted right comes from the word `k` above or, if it is among the high `b`, from the one over it. -/
theorem getLsbD_shiftedRightWord (hl : l < 32) (hb : b < 32) :
    (shiftedRightWord ws fill k b j).getLsbD l = vectorBit ws fill (32 * k + b + (32 * j + l)) := by
  rw [shiftedRightWord, BitVec.getLsbD_or, BitVec.getLsbD_ushiftRight]
  by_cases hin : b + l < 32
  · have hnone : (if b ≠ 0 then wordOr ws fill (j + k + 1) <<< (32 - b) else 0).getLsbD l = false := by
      split_ifs
      · rw [BitVec.getLsbD_shiftLeft, decide_eq_true (by omega : l < 32 - b), Bool.not_true, Bool.and_false,
          Bool.false_and]
      · exact BitVec.getLsbD_zero
    rw [hnone, Bool.or_false, vectorBit_eq ws fill (q := j + k) (by omega) hin]
  · rw [vectorBit_eq ws fill (q := j + k + 1) (r := l - (32 - b)) (by omega) (by omega), if_pos (by omega),
      BitVec.getLsbD_of_ge _ _ (not_lt.mp hin), Bool.false_or, BitVec.getLsbD_shiftLeft, decide_eq_true hl,
      decide_eq_false (by omega)]
    rfl

end

/-- A bit of a word vector given by its words. -/
theorem vectorBit_map_range {n i : Nat} (f : Nat → Word) (fill : Word) (h : i / 32 < n) :
    vectorBit ((List.range n).map f) fill i = (f (i / 32)).getLsbD (i % 32) := by
  rw [vectorBit_of_lt _ (by rw [List.length_map, List.length_range]; exact h), List.getElem_map, List.getElem_range]

/-- An amount is its word offset and its bit offset. -/
theorem word_and_bit_offset (amount : Nat) : 32 * (amount >>> 5) + amount % 32 = amount := by
  rw [Nat.shiftRight_eq_div_pow]
  exact Nat.div_add_mod amount 32

theorem datapathShl_eq (a : VReg) (amount : Nat) : datapathShl a amount = mk a.wc a.sg (pat a * 2 ^ amount) := by
  apply mkWords_eq_of_vectorBit
  intro i hi
  rw [vectorBit_map_range _ _ (div_lt_wordsOf hi),
    getLsbD_shiftedLeftWord _ (Nat.mod_lt i (by decide)) (Nat.mod_lt amount (by decide)), word_and_bit_offset,
    Nat.div_add_mod, ← testBit_pat (by omega)]
  exact_mod_cast (Nat.testBit_mul_two_pow _ _ _).symm

theorem datapathShr_eq {a : VReg} (hv : a.valid = true) (hc : Canonical a) (amount : Nat) :
    datapathShr a amount = mk a.wc a.sg (val a / 2 ^ amount) := by
  apply mkWords_eq_of_vectorBit
  intro i hi
  rw [vectorBit_map_range _ _ (div_lt_wordsOf hi),
    getLsbD_shiftedRightWord _ _ (Nat.mod_lt i (by decide)) (Nat.mod_lt amount (by decide)), word_and_bit_offset,
    Nat.div_add_mod, vectorBit_valueWords hv hc, testBit_ediv_two_pow]

/-- Settles O58: an amount below the width is not negative, and bit by bit the shifter moves the value. -/
theorem shifterDatapathsAgree : Obligations.ShifterDatapathsAgree := by
  intro s rd rs1 hv hc hlt
  have hsmall : 2 * s.arg.toNat < 2 ^ 32 := by
    have := widthOf_le (s.readV rs1).wc
    omega
  have harg : 0 ≤ s.arg.toInt := by
    rw [BitVec.toInt_eq_toNat_of_lt hsmall]
    positivity
  rw [exec_shl, exec_shr, datapathShl_eq, datapathShr_eq hv hc, ← shiftRight_eq_ediv]
  obtain ⟨t, ht, -, -, hshl⟩ := shiftToV_writes 0x0C rd shiftLeft hv harg
  obtain ⟨u, hu, -, -, hshr⟩ := shiftToV_writes 0x0D rd shiftRight hv harg
  rw [shiftLeft, if_neg (not_le.mpr hlt)] at hshl
  exact ⟨⟨t, ht, hshl⟩, u, hu, hshr⟩

end Sys2Proof.Machine
end

section
/-! SUPPORT. The compare datapath (42_shift_logic_compare.md R193): of canonical values with one sign, the stored words
as unsigned numbers differ as the values do. -/

namespace Sys2Proof.Machine

/-- The highest word that differs decides, as it does between the numbers. -/
theorem wordsOrder_eq : ∀ xs ys : List Word, xs.length = ys.length →
    wordsOrder xs ys = compare (wordsNat xs) (wordsNat ys)
  | [], [], _ => rfl
  | x :: xs, y :: ys, h => by
    have hx := x.isLt
    have hy := y.isLt
    rw [wordsOrder, wordsOrder_eq xs ys (by simpa using h), wordsNat, wordsNat]
    rcases lt_trichotomy (wordsNat xs) (wordsNat ys) with hlt | heq | hgt
    · rw [compare_lt_iff_lt.mpr hlt, eq_comm, compare_lt_iff_lt]
      omega
    · rw [heq, compare_eq_iff_eq.mpr rfl]
      simp only [Nat.compare_eq_ite_lt, Nat.add_lt_add_iff_right]
    · rw [compare_gt_iff_gt.mpr hgt, eq_comm, compare_gt_iff_gt]
      omega

theorem compare_of_eq_add {m n : Nat} {x y c : Int} (hm : (m : Int) = x + c) (hn : (n : Int) = y + c) :
    compare m n = compare x y := by
  have hlt : m < n ↔ x < y := by omega
  have hgt : n < m ↔ y < x := by omega
  simp only [Nat.compare_eq_ite_lt, Int.compare_eq_ite_lt, hlt, hgt]

/-- The sign bits first and then the words give the order of the values (R193). -/
theorem datapathCmp_eq {a b : VReg} (ha : a.valid = true) (hb : b.valid = true) (h : SameType a b)
    (hca : Canonical a) (hcb : Canonical b) : datapathCmp a b = compare (val a) (val b) := by
  have hwa := wordsNat_valueWords_of_canonical ha hca
  have hwb := wordsNat_valueWords_of_canonical hb hcb
  rw [← h.1] at hwb
  rw [datapathCmp, ← signOf, ← signOf, wordsOrder_eq _ _ (by rw [length_valueWords, h.length_valueWords])]
  have hsa := signOf_eq_decide_neg a
  have hsb := signOf_eq_decide_neg b
  cases hna : signOf a <;> cases hnb : signOf b <;> rw [hna] at hwa hsa <;> rw [hnb] at hwb hsb
  case false.false => exact compare_of_eq_add hwa hwb
  case true.true => exact compare_of_eq_add hwa hwb
  case true.false =>
    have hlt : val a < val b := (of_decide_eq_true hsa.symm).trans_le (not_lt.mp (of_decide_eq_false hsb.symm))
    exact (compare_lt_iff_lt.mpr hlt).symm
  case false.true =>
    have hgt : val b < val a := (of_decide_eq_true hsb.symm).trans_le (not_lt.mp (of_decide_eq_false hsa.symm))
    exact (compare_gt_iff_gt.mpr hgt).symm

/-- The word for an order in RES (R192). -/
def wordOfOrdering : Ordering → Word
  | .eq => 0
  | .lt => 1
  | .gt => 2

theorem orderWord_eq (x y : Int) : orderWord x y = wordOfOrdering (compare x y) := by
  rw [orderWord]
  split_ifs with heq hlt
  · rw [compare_eq_iff_eq.mpr heq, wordOfOrdering]
  · rw [compare_lt_iff_lt.mpr hlt, wordOfOrdering]
  · rw [compare_gt_iff_gt.mpr (by omega), wordOfOrdering]

/-- Settles O60: the datapath's order is that of the values, which CMP writes to RES. -/
theorem compareDatapathAgrees : Obligations.CompareDatapathAgrees := by
  intro s rs1 rs2 h1 h2 htype hc1 hc2
  refine ⟨_, exec_cmp_ok h1 h2 htype, ?_⟩
  rw [datapathCmp_eq h1 h2 htype hc1 hc2]
  exact orderWord_eq _ _

end Sys2Proof.Machine
end

section
/-! SUPPORT. WIDEN, NARROW, REINT, FROMNAT and TONAT (43_conversion.md R210 to R223): what each answers, by case. A type
of a larger width holds every value of a smaller one; the other signedness reads the same bits 2^w apart when the top
bit is 1; and a native integer is DATA[0], or DATA[1] above DATA[0]. -/

namespace Sys2Proof.Machine

/-! ## What the commands answer -/

/-- What a command that writes V[rd] and nothing else leaves behind. -/
theorem writes_of_exec {i : Instr} {s : State} {rd : RegIx} {r : VReg} {op : Opcode}
    (h : exec i s = .next ((s.writeV rd r).succeed op)) :
    ∃ t, exec i s = .next t ∧ Succeeded op t ∧ OnlyRegs [rd] s t ∧ t.readV rd = r :=
  ⟨_, h, succeed_succeeded _ _, onlyRegs_writeV_succeed _ _ _ _,
    by rw [State.readV_succeed, State.readV_writeV_self]⟩

section
variable {s : State} {rs1 : RegIx}

theorem exec_widen_empty (rd : RegIx) (wc : WidthCode) (h : (s.readV rs1).valid = false) :
    exec (.widen rd rs1 wc) s = .next (s.fail 0x18 .uninitialized) := by
  rw [exec, execWiden, complete_src_empty _ _ h, opcodeOf]

theorem exec_widen_smaller (rd : RegIx) {wc : WidthCode} (h : (s.readV rs1).valid = true)
    (hw : widthOf wc < widthOf (s.readV rs1).wc) :
    exec (.widen rd rs1 wc) s = .next (s.fail 0x18 .invalidWidth) := by
  rw [exec, execWiden, complete_src_valid _ _ h, if_pos hw, complete_error, opcodeOf]

theorem exec_narrow_empty (rd : RegIx) (wc : WidthCode) (h : (s.readV rs1).valid = false) :
    exec (.narrow rd rs1 wc) s = .next (s.fail 0x19 .uninitialized) := by
  rw [exec, execNarrow, complete_src_empty _ _ h, opcodeOf]

theorem exec_narrow_larger (rd : RegIx) {wc : WidthCode} (h : (s.readV rs1).valid = true)
    (hw : widthOf (s.readV rs1).wc < widthOf wc) :
    exec (.narrow rd rs1 wc) s = .next (s.fail 0x19 .invalidWidth) := by
  rw [exec, execNarrow, complete_src_valid _ _ h, if_pos hw, complete_error, opcodeOf]

theorem exec_reint_empty (rd : RegIx) (h : (s.readV rs1).valid = false) :
    exec (.reint rd rs1) s = .next (s.fail 0x1A .uninitialized) := by
  rw [exec, execReint, complete_src_empty _ _ h, opcodeOf]

theorem exec_fromnat_unfit (rd : RegIx) {wc : WidthCode} {sg : Bool} {n : NativeWidth}
    (h : ¬inRange (nativeValue s n sg) (widthOf wc) sg = true) :
    exec (.fromnat rd wc sg n) s = .next (s.fail 0x1C .valueOutOfRange) := by
  rw [exec, execFromnat, if_neg h, complete_error, opcodeOf]

theorem exec_tonat_empty (n : NativeWidth) (h : (s.readV rs1).valid = false) :
    exec (.tonat rs1 n) s = .next (s.fail 0x1D .uninitialized) := by
  rw [exec, execTonat, complete_src_empty _ _ h, opcodeOf]

theorem exec_tonat_unfit {n : NativeWidth} (h : (s.readV rs1).valid = true)
    (hr : ¬inRange (val (s.readV rs1)) (nativeBits n) (s.readV rs1).sg = true) :
    exec (.tonat rs1 n) s = .next (s.fail 0x1D .valueOutOfRange) := by
  rw [exec, execTonat, complete_src_valid _ _ h, if_neg hr, complete_error, opcodeOf]

theorem exec_tonat_ok {n : NativeWidth} (h : (s.readV rs1).valid = true)
    (hr : inRange (val (s.readV rs1)) (nativeBits n) (s.readV rs1).sg = true) :
    exec (.tonat rs1 n) s =
      .next ((s.writeNative n (truncBits (nativeBits n) (val (s.readV rs1)))).succeed 0x1D) := by
  rw [exec, execTonat, complete_src_valid _ _ h, if_pos hr, complete_ok, opcodeOf]

end

/-! ## WIDEN and NARROW -/

theorem inRange_iff (x : Int) (w : Nat) (sg : Bool) : inRange x w sg = true ↔
    if sg then -2 ^ (w - 1) ≤ x ∧ x ≤ 2 ^ (w - 1) - 1 else 0 ≤ x ∧ x ≤ 2 ^ w - 1 := by
  cases sg with
  | false => exact inRange_unsigned_iff x w
  | true => exact inRange_signed_iff x w

/-- A type of a larger width holds every value of a smaller one of its signedness (43_conversion.md R210). -/
theorem inRange_mono {x : Int} {w w' : Nat} {sg : Bool} (hw : w ≤ w') (h : inRange x w sg = true) :
    inRange x w' sg = true := by
  cases sg with
  | false =>
    have hpow : (2 : Int) ^ w ≤ 2 ^ w' := pow_le_pow_right₀ (by decide) hw
    rw [inRange_unsigned_iff] at *
    omega
  | true =>
    have hpow : (2 : Int) ^ (w - 1) ≤ 2 ^ (w' - 1) := pow_le_pow_right₀ (by decide) (by omega)
    rw [inRange_signed_iff] at *
    omega

/-- Storing a value at a width that is not smaller keeps it. -/
theorem val_mk_widen (a : VReg) {wc : WidthCode} (hw : widthOf a.wc ≤ widthOf wc) :
    val (mk wc a.sg (val a)) = val a :=
  val_mk_of_inRange _ _ _ (inRange_mono hw (val_inRange a))

/-- Settles O29: the widths decide the case, and a wider type holds the value (`val_mk_widen`). -/
theorem widenFollowsRule : Obligations.WidenFollowsRule := by
  intro s rd rs1 wc
  refine ⟨selectsRow_encode (i := .widen rd rs1 wc) rfl, fun hv => ?_, fun hv hlt => ?_, fun hv hle => ?_⟩
  · exact ⟨_, exec_widen_empty rd wc hv, fail_failedWith _ _ _⟩
  · exact ⟨_, exec_widen_smaller rd hv hlt, fail_failedWith _ _ _⟩
  · obtain ⟨t, hexec, hok, hframe, hrd⟩ := writes_of_exec (exec_widen_ok (rd := rd) hv hle)
    exact ⟨t, hexec, hok, hframe, hrd, by rw [hrd, val_mk_widen _ hle]⟩

/-- Settles O30: the widths decide the case, and `mk` keeps the low bits of the pattern. -/
theorem narrowFollowsRule : Obligations.NarrowFollowsRule := by
  intro s rd rs1 wc
  refine ⟨selectsRow_encode (i := .narrow rd rs1 wc) rfl, fun hv => ?_, fun hv hlt => ?_, fun hv hle => ?_⟩
  · exact ⟨_, exec_narrow_empty rd wc hv, fail_failedWith _ _ _⟩
  · exact ⟨_, exec_narrow_larger rd hv hlt, fail_failedWith _ _ _⟩
  · obtain ⟨t, hexec, hok, hframe, hrd⟩ := writes_of_exec (exec_narrow_ok (rd := rd) hv hle)
    exact ⟨t, hexec, hok, hframe, hrd, by rw [hrd, pat_mk, truncBits_natCast]⟩

/-- Settles O38: WIDEN keeps the value, NARROW stores it at the operand's own type, and a canonical register is what its
type and value store. -/
theorem narrowOfWidenIsIdentity : Obligations.NarrowOfWidenIsIdentity := by
  intro s rd rd' rs1 wc hv hc hle
  obtain ⟨t, hwiden, -, -, hrd⟩ := writes_of_exec (exec_widen_ok (rd := rd) hv hle)
  have hback : widthOf (s.readV rs1).wc ≤ widthOf (t.readV rd).wc := by rwa [hrd, mk_wc]
  have hvalid : (t.readV rd).valid = true := by rw [hrd, mk_valid]
  obtain ⟨u, hnarrow, -, -, hrd'⟩ := writes_of_exec (exec_narrow_ok (rd := rd') hvalid hback)
  refine ⟨t, u, hwiden, hnarrow, ?_⟩
  rw [hrd', mk_pat_narrow _ _ hback, hrd, val_mk_widen _ hle, mk_sg]
  exact (hc hv).symm

/-! ## REINT -/

/-- A pattern stored at its own width is kept, at either signedness. -/
theorem pat_mk_pat (a : VReg) (sg : Bool) : pat (mk a.wc sg (pat a)) = pat a := by
  rw [pat_mk, truncBits_natCast, Nat.mod_eq_of_lt (pat_lt a)]

/-- The value of a register, read off its pattern: the top bit of a signed type stands for `-2^w` more. -/
theorem val_eq_of_top (a : VReg) : val a =
    if a.sg = true ∧ (pat a).testBit (widthOf a.wc - 1) = true then (pat a : Int) - 2 ^ widthOf a.wc else pat a := by
  rw [val, sval, ite_and]

/-- The same bits read with the other signedness: the value moves by `2^w` iff the top bit is 1 (43_conversion.md
R218). -/
theorem val_mk_reint (a : VReg) : val (mk a.wc (!a.sg) (pat a)) =
    if (pat a).testBit (widthOf a.wc - 1) then
      (if a.sg then val a + 2 ^ widthOf a.wc else val a - 2 ^ widthOf a.wc)
    else val a := by
  rw [val_eq_of_top (mk _ _ _), val_eq_of_top a, pat_mk_pat, mk_wc, mk_sg]
  cases (pat a).testBit (widthOf a.wc - 1) with
  | false => simp
  | true => cases a.sg <;> simp

/-- Settles O31: the stored pattern is the operand's. -/
theorem reintFollowsRule : Obligations.ReintFollowsRule := by
  intro s rd rs1
  refine ⟨selectsRow_encode (i := .reint rd rs1) rfl, fun hv => ?_, fun hv => ?_⟩
  · exact ⟨_, exec_reint_empty rd hv, fail_failedWith _ _ _⟩
  · obtain ⟨t, hexec, hok, hframe, hrd⟩ := writes_of_exec (exec_reint_ok (rd := rd) hv)
    exact ⟨t, hexec, hok, hframe, hrd, by rw [hrd, pat_mk_pat]⟩

/-- Settles O32: the signedness flipped twice is the operand's, and so is the pattern stored with it. -/
theorem reintCornerCases : Obligations.ReintCornerCases := by
  intro s rd rd' rs1 hv
  obtain ⟨t, hfirst, -, -, hrd⟩ := writes_of_exec (exec_reint_ok (rd := rd) hv)
  have hvalid : (t.readV rd).valid = true := by rw [hrd, mk_valid]
  obtain ⟨u, hsecond, -, -, hrd'⟩ := writes_of_exec (exec_reint_ok (rd := rd') hvalid)
  refine ⟨t, u, hfirst, hsecond, fun hc => ?_, ?_⟩
  · rw [hrd', hrd, pat_mk_pat, mk_wc, mk_sg, Bool.not_not, mk_pat_of_canonical hv hc]
  · rw [hrd, val_mk_reint]

/-! ## FROMNAT -/

theorem dataPattern_one (s : State) : dataPattern s 1 = s.data[0].toNat := by
  have hword : s.data.toList.take 1 = [s.data[0]] := by simp [List.take_one, List.head?_eq_getElem?]
  rw [dataPattern, hword, wordsNat, wordsNat, Nat.mul_zero, Nat.add_zero]

/-- DATA[0] as a native integer (43_conversion.md R219). -/
theorem nativeValue_n32 (s : State) (sg : Bool) :
    nativeValue s .n32 sg = if sg then s.data[0].toInt else s.data[0].toNat := by
  rw [nativeValue, nativeWords, nativeBits, dataPattern_one, sval_toNat (by decide)]

theorem dataPattern_two_eq_append (s : State) : dataPattern s 2 = (s.data[1] ++ s.data[0]).toNat := by
  rw [dataPattern_two, toNat_append_add]
  ring

/-- Settles O33: whether the native integer is in the target's range decides the case, and `mk` stores an integer in
the range. -/
theorem fromnatFollowsRule : Obligations.FromnatFollowsRule := by
  intro s rd wc sg n x hx
  have hnative : nativeValue s n sg = x := by
    cases n with
    | n32 => exact (nativeValue_n32 s sg).trans hx.symm
    | n64 => exact (nativeValue_n64 (dataPattern_two_eq_append s) sg).trans hx.symm
  rw [← inRange_iff, ← hnative]
  refine ⟨selectsRow_encode (i := .fromnat rd wc sg n) rfl, fun hout => ?_, fun hin => ?_⟩
  · exact ⟨_, exec_fromnat_unfit rd hout, fail_failedWith _ _ _⟩
  · obtain ⟨t, hexec, hok, hframe, hrd⟩ := writes_of_exec (exec_fromnat_ok (rd := rd) hin)
    exact ⟨t, hexec, hok, hframe, hrd, by rw [hrd, val_mk_of_inRange _ _ _ hin]⟩

/-! ## TONAT -/

section
variable {ks : List (Fin 8)} {s t : State}

theorem OnlyData.refl (ks : List (Fin 8)) (s : State) : OnlyData ks s s :=
  ⟨fun _ => rfl, fun _ _ => rfl, rfl, rfl, rfl, rfl, rfl, rfl⟩

theorem OnlyData.writeData (h : OnlyData ks s t) {k : Fin 8} (hk : k ∈ ks) (x : Word) :
    OnlyData ks s (t.writeData k x) := by
  obtain ⟨hregs, hdata, hrest⟩ := h
  refine ⟨fun j => by rw [State.readV_writeData, hregs], fun l hl => ?_, hrest⟩
  have hne : k.val ≠ l.val := fun heq => hl (Fin.ext heq ▸ hk)
  rw [← hdata l hl, State.writeData_data, Vector.getElem_set_ne _ _ hne]

theorem OnlyData.succeed (h : OnlyData ks s t) (op : Opcode) : OnlyData ks s (t.succeed op) := by
  obtain ⟨hregs, hrest⟩ := h
  exact ⟨fun j => by rw [State.readV_succeed, hregs], hrest⟩

end

/-- The pattern of an integer reduced modulo `2^w` is its two's complement (00_scope.md R15). -/
theorem ofNat_truncBits (w : Nat) (x : Int) : BitVec.ofNat w (truncBits w x) = BitVec.ofInt w x := by
  apply BitVec.eq_of_toNat_eq
  rw [BitVec.toNat_ofNat, Nat.mod_eq_of_lt (truncBits_lt w x), truncBits, BitVec.toNat_ofInt,
    Nat.cast_pow, Nat.cast_ofNat]

theorem wordAt_zero (u : Nat) : wordAt u 0 = BitVec.ofNat 32 u := rfl

/-- The two words of a 64-bit pattern, the higher one first (20_memory.md R63). -/
theorem wordAt_append_wordAt (u : Nat) : wordAt u 1 ++ wordAt u 0 = BitVec.ofNat 64 u := by
  apply BitVec.eq_of_toNat_eq
  rw [toNat_append_add, wordAt, wordAt, Nat.shiftRight_eq_div_pow, Nat.shiftRight_eq_div_pow]
  simp only [BitVec.toNat_ofNat]
  omega

/-- TONAT's answer when the value fits: the words of DATA it writes hold the two's complement. -/
theorem succeed_writeNative_n32 (s : State) (x : Int) (op : Opcode) :
    OnlyData [0] s ((s.writeNative .n32 (truncBits 32 x)).succeed op) ∧
      ((s.writeNative .n32 (truncBits 32 x)).succeed op).data[0] = BitVec.ofInt 32 x := by
  refine ⟨((OnlyData.refl [0] s).writeData (by decide) _).succeed op, ?_⟩
  simp [State.writeNative, wordAt_zero, ofNat_truncBits]

theorem succeed_writeNative_n64 (s : State) (x : Int) (op : Opcode) :
    OnlyData [0, 1] s ((s.writeNative .n64 (truncBits 64 x)).succeed op) ∧
      ((s.writeNative .n64 (truncBits 64 x)).succeed op).data[1] ++
        ((s.writeNative .n64 (truncBits 64 x)).succeed op).data[0] = BitVec.ofInt 64 x := by
  refine ⟨(((OnlyData.refl [0, 1] s).writeData (by decide) _).writeData (by decide) _).succeed op, ?_⟩
  simp [State.writeNative, wordAt_append_wordAt, ofNat_truncBits]

/-- Settles O34: whether the value is in the native range decides the case, and each native width has its own words of
DATA. -/
theorem tonatFollowsRule : Obligations.TonatFollowsRule := by
  rintro s rs1 n N x hN rfl
  have hbits : N = nativeBits n := by cases n <;> exact hN
  rw [← inRange_iff, hbits]
  refine ⟨selectsRow_encode (i := .tonat rs1 n) rfl, fun hv => ?_, fun hv hout => ?_, fun hv hin => ?_⟩
  · exact ⟨_, exec_tonat_empty n hv, fail_failedWith _ _ _⟩
  · exact ⟨_, exec_tonat_unfit hv hout, fail_failedWith _ _ _⟩
  · refine ⟨_, exec_tonat_ok hv hin, succeed_succeeded _ _, ?_⟩
    cases n with
    | n32 => exact succeed_writeNative_n32 s _ _
    | n64 => exact succeed_writeNative_n64 s _ _

end Sys2Proof.Machine
end

section
/-! SUPPORT. Which error kinds a command raises (60_exceptions.md R242): each command's rule reads its operands, makes at
most one check of its own, and answers; the completions turn that into STATUS (R245, R246). -/

namespace Sys2Proof.Machine

/-- A rule that raises no error kind but those in `ks`. -/
def RaisesOnly (ks : List ErrKind) (r : Except ErrKind State) : Prop := ∀ e, r = .error e → e ∈ ks

/-! One lemma per form a rule takes: it answers a state, raises an error, tests, or reads its operands first. -/

section
variable {ks : List ErrKind} {s : State}

theorem RaisesOnly.ok {u : State} : RaisesOnly ks (.ok u) := nofun

theorem RaisesOnly.error (e : ErrKind) : RaisesOnly [e] (.error e) := by
  rintro _ ⟨⟩
  exact List.mem_singleton_self e

theorem RaisesOnly.ite {c : Prop} [Decidable c] {r r' : Except ErrKind State} (h : RaisesOnly ks r)
    (h' : RaisesOnly ks r') : RaisesOnly ks (if c then r else r') := by
  split
  · exact h
  · exact h'

/-- Reading a source operand adds Uninitialized to the kinds of the rest of the rule. -/
theorem RaisesOnly.source {rs1 : RegIx} {f : VReg → Except ErrKind State} (h : ∀ a, RaisesOnly ks (f a)) :
    RaisesOnly (.uninitialized :: ks) (src s rs1 >>= f) := by
  intro e he
  rcases src_cases s rs1 with ⟨-, hsrc⟩ | ⟨-, hsrc⟩ <;> rw [hsrc] at he
  · exact List.mem_cons_of_mem _ (h _ e he)
  · cases he
    exact List.mem_cons_self

/-- Reading two operands of one type adds Uninitialized and TypeMismatch. -/
theorem RaisesOnly.sources {rs1 rs2 : RegIx} {f : VReg × VReg → Except ErrKind State}
    (h : ∀ p, RaisesOnly ks (f p)) :
    RaisesOnly (.uninitialized :: .typeMismatch :: ks) (srcPair s rs1 rs2 >>= f) := by
  intro e he
  rcases srcPair_cases s rs1 rs2 with ⟨-, hsrc⟩ | ⟨-, -, -, hsrc⟩ | ⟨-, -, -, hsrc⟩ <;> rw [hsrc] at he
  · cases he
    exact List.mem_cons_self
  · cases he
    exact List.mem_cons_of_mem _ List.mem_cons_self
  · exact List.mem_cons_of_mem _ (List.mem_cons_of_mem _ (h _ e he))

end

/-- An outcome that, if it is a next state, is a success of the command with opcode `op`, or its failure with one of the
kinds `ks` and nothing but STATUS changed. -/
def PreciseOutcome (op : Opcode) (ks : List ErrKind) (s : State) (o : Host.Outcome State Fault Refusal) : Prop :=
  ∀ t, o = .next t → Succeeded op t ∨ ∃ e ∈ ks, FailedWith op e s t

/-- The completions make a rule's result precise: an error discards the rule's writes (R245). -/
theorem complete_precise {op : Opcode} {ks : List ErrKind} {s : State} {r : Except ErrKind State}
    (h : RaisesOnly ks r) : PreciseOutcome op ks s (complete op s r) := by
  intro t ht
  rcases complete_cases ht with ⟨u, -, rfl⟩ | ⟨e, he, rfl⟩
  · exact .inl (succeed_succeeded op u)
  · exact .inr ⟨e, h e he, fail_failedWith op e s⟩

theorem binaryToV_precise (op : Opcode) (rd rs1 rs2 : RegIx) (f : VReg → VReg → Int) (s : State) :
    PreciseOutcome op [.uninitialized, .typeMismatch] s (binaryToV op rd rs1 rs2 f s) :=
  complete_precise (.sources fun _ => .ok)

theorem shiftToV_precise (op : Opcode) (rd rs1 : RegIx) (f : VReg → Nat → Int) (s : State) :
    PreciseOutcome op [.uninitialized, .invalidShiftAmount] s (shiftToV op rd rs1 f s) :=
  complete_precise (.source fun _ => .ite (.error _) .ok)

/-- With two distinct destinations DIVREM is legal, so IllegalCommand is not among its kinds (30_encoding.md R100). -/
theorem execDivrem_precise {rd rd2 : RegIx} (hne : rd ≠ rd2) (rs1 rs2 : RegIx) (s : State) :
    PreciseOutcome 0x0B [.uninitialized, .typeMismatch, .divisionByZero] s (execDivrem rd rs1 rs2 rd2 s) := by
  rw [execDivrem, if_neg hne]
  exact complete_precise (.sources fun _ => .ite (.error _) .ok)

/-- Each arm follows the form of the command's rule, as in `exec_commits`; legality matters to DIVREM alone. -/
theorem exec_precise {i : Instr} (hwf : i.wellFormed = true) (s : State) :
    PreciseOutcome (opcodeOf i) (kindsOf i) s (exec i s) := by
  unfold exec
  cases i with
  | zero | typeof => exact complete_precise .ok
  | ldw | fromnat => exact complete_precise (.ite .ok (.error _))
  | stw | iszero | signbit | not | reint => exact complete_precise (.source fun _ => .ok)
  | getbit | widen | narrow => exact complete_precise (.source fun _ => .ite (.error _) .ok)
  | tonat => exact complete_precise (.source fun _ => .ite .ok (.error _))
  | add | sub | mul | and | or | xor => exact binaryToV_precise _ _ _ _ _ s
  | cmp => exact complete_precise (.sources fun _ => .ok)
  | divrem rd rs1 rs2 rd2 => exact execDivrem_precise (bne_iff_ne.mp hwf) rs1 rs2 s
  | shl | shr => exact shiftToV_precise _ _ _ _ s

/-- Settles O10, by the kinds each command's rule can raise (`exec_precise`). -/
theorem commandSucceedsOrFailsPrecisely : Obligations.CommandSucceedsOrFailsPrecisely :=
  fun _ s t hwf hexec => exec_precise hwf s t hexec

end Sys2Proof.Machine
end

section
/-! SUPPORT. What the reset input does to a cycle, and when a step stops: the three outcomes of a step, each with the
condition on the access issued and the reset input under which it comes (20_memory.md R61; 70_reset_and_hazards.md R270,
R271). -/

namespace Sys2Proof.Machine

/-- With nothing issued or held, a cycle with the reset input asserted resets the block, whatever it was doing (R270). -/
theorem step_resets {s : State} (hr : s.thisCycle.resetLine = true) (hissue : s.thisCycle.issue = none)
    (hp : s.pending = []) : step s = .next s.takeInput.resetBlock := by
  have hnone : s.takeInput.pending = [] := (takeInput_pending_eq_nil_iff s).mpr ⟨hp, hissue⟩
  rw [step_resetting (by simp [hissue]) hr, if_pos hnone]

/-- Settles O43, by the cycle that resets the block (`step_resets`). -/
theorem hardwareResetAbandonsCommand : Obligations.HardwareResetAbandonsCommand := by
  intro s hr hissue hp
  exact ⟨_, step_resets hr hissue hp, resetBlock_atResetValues _, by simp [hp, hissue], rfl, rfl⟩

/-- Without reset the core always goes on: every access is answered and every word commits. -/
theorem coreCycle_total (s : State) : ∃ t, coreCycle s = .next t := by
  match hf : s.inflight with
  | none => exact ⟨_, coreCycle_idle hf⟩
  | some ⟨c, 0⟩ =>
    obtain ⟨ds, t, ht, -⟩ := commitWord_commits c s.serveBusy
    exact ⟨t, (coreCycle_committing hf).trans ht⟩
  | some ⟨c, k + 1⟩ => exact ⟨_, coreCycle_waiting hf⟩

/-- The three outcomes of a step. The conditions exclude one another, so each is also the only way to its outcome. -/
theorem step_outcomes (s : State) :
    (s.thisCycle.issue.all inWindow = false ∧ step s = .fault .outsideWindow) ∨
    (s.thisCycle.issue.all inWindow = true ∧ s.thisCycle.resetLine = true ∧ s.takeInput.pending ≠ [] ∧
      step s = .refused .accessDuringReset) ∨
    (s.thisCycle.issue.all inWindow = true ∧ (s.thisCycle.resetLine = true → s.takeInput.pending = []) ∧
      ∃ t, step s = .next t) := by
  cases hw : s.thisCycle.issue.all inWindow with
  | false => exact .inl ⟨rfl, step_outside hw⟩
  | true =>
    cases hr : s.thisCycle.resetLine with
    | false =>
      obtain ⟨t, ht⟩ := coreCycle_total s.takeInput
      exact .inr (.inr ⟨rfl, nofun, t, (step_running hw hr).trans ht⟩)
    | true =>
      by_cases hp : s.takeInput.pending = []
      · exact .inr (.inr ⟨rfl, fun _ => hp, _, (step_resetting hw hr).trans (if_pos hp)⟩)
      · exact .inr (.inl ⟨rfl, rfl, hp, (step_resetting hw hr).trans (if_neg hp)⟩)

theorem step_eq_outsideWindow_iff (s : State) :
    step s = .fault .outsideWindow ↔ s.thisCycle.issue.all inWindow = false := by
  rcases step_outcomes s with ⟨hw, hs⟩ | ⟨hw, -, -, hs⟩ | ⟨hw, -, t, hs⟩ <;> simp [hw, hs]

theorem step_eq_accessDuringReset_iff (s : State) :
    step s = .refused .accessDuringReset ↔
      s.thisCycle.resetLine = true ∧ s.thisCycle.issue.all inWindow = true ∧ s.takeInput.pending ≠ [] := by
  rcases step_outcomes s with ⟨hw, hs⟩ | ⟨hw, hr, hp, hs⟩ | ⟨hw, himp, t, hs⟩
  · simp [hw, hs]
  · exact ⟨fun _ => ⟨hr, hw, hp⟩, fun _ => hs⟩
  · exact ⟨fun h => (nomatch hs.symm.trans h), fun ⟨hr, _, hp⟩ => absurd (himp hr) hp⟩

theorem step_next_iff (s : State) :
    (∃ t, step s = .next t) ↔
      s.thisCycle.issue.all inWindow = true ∧ (s.thisCycle.resetLine = true → s.takeInput.pending = []) := by
  rcases step_outcomes s with ⟨hw, hs⟩ | ⟨hw, hr, hp, hs⟩ | ⟨hw, himp, t, hs⟩
  · simp [hw, hs]
  · exact ⟨fun ⟨t, ht⟩ => (nomatch hs.symm.trans ht), fun ⟨_, himp⟩ => absurd (himp hr) hp⟩
  · exact ⟨fun _ => ⟨hw, himp⟩, fun _ => ⟨t, hs⟩⟩

/-- The window is the 64 bytes from MWAU_BASE (20_memory.md R61): an address outside it lies below or beyond them. -/
theorem inWindow_eq_false_iff (a : Access) :
    inWindow a = false ↔ a.addr < Config.mwauBase ∨ Config.mwauBase + 64 ≤ a.addr := by
  rw [← Bool.not_eq_true, inWindow_iff]; omega

theorem issue_all_inWindow_eq_false_iff (s : State) :
    s.thisCycle.issue.all inWindow = false ↔
      ∃ a, s.thisCycle.issue = some a ∧ (a.addr < Config.mwauBase ∨ Config.mwauBase + 64 ≤ a.addr) := by
  cases s.thisCycle.issue <;> simp [inWindow_eq_false_iff]

theorem takeInput_pending_ne_nil_iff (s : State) :
    s.takeInput.pending ≠ [] ↔ s.pending ≠ [] ∨ s.thisCycle.issue ≠ none := by
  rw [Ne, takeInput_pending_eq_nil_iff, not_and_or]

/-- Settles O44, by the condition for each outcome of a step (`step_outcomes`). -/
theorem stepStopsOnlyForMisplacedAccesses : Obligations.StepStopsOnlyForMisplacedAccesses := by
  intro s
  refine ⟨?_, ?_, ?_⟩
  · rw [step_eq_accessDuringReset_iff, issue_all_inWindow_iff, takeInput_pending_ne_nil_iff]
  · rw [step_eq_outsideWindow_iff, issue_all_inWindow_eq_false_iff]
  · rw [step_next_iff, issue_all_inWindow_iff, takeInput_pending_eq_nil_iff]

end Sys2Proof.Machine
end
